-- ==== Sys2Proof/Word.lean ====
section
/-!
DEFINITION. The word types of the block: registers and operands are 32 bits wide (R10), memory and the
buffer arena are addressed by bytes (R80), and a transfer buffer is named by its handle 0..3 (R21, R48).
-/

namespace Sys2Proof

/-- A register, an operand or a host address: 32 bits (R10). -/
abbrev Word := BitVec 32

/-- The addressable unit of host memory and of the buffer arena (R80). -/
abbrev Byte := BitVec 8

/-- The index 0..3 of a transfer buffer in the pool arena (R21, R48). -/
abbrev Handle := Fin 4

end Sys2Proof
end

