-- ==== Sys2Proof/Syntax.lean ====
section
/-!
DEFINITION. The commands of the opcode map (R113), the registers of the port (R30), the lines of a host
program (R118) and the pseudo-instructions (R119).
-/

namespace Sys2Proof

/-- One constructor per row of the opcode map R113. `h` is the destination buffer handle of format H
(R112); the operands of every command are in ARG0..ARG3 (R116) and are no part of the command word. -/
inductive Instr where
  | pack332 (h : Nat)
  | pack565 (h : Nat)
  | pack888 (h : Nat)
  | solve
  | negotiate
  | bwbpp
  | configure
  | enable
  | disable
  | submit
  | clrsts
  deriving DecidableEq, Repr

/-- The registers of the port by name (R30). `reserved` stands for every reserved index (R31). -/
inductive Reg where
  | cmd
  | status
  | engstate
  | bufsize
  | bpp
  | credits
  | pllOut
  | arg (i : Fin 4)
  | res (i : Fin 8)
  | reserved
  deriving DecidableEq, Repr

/-- One line of a host program (R118). A register is named by its index in the port, so that every index
of R30 can be written and read. -/
inductive HostLine where
  /-- `wr REG, imm`: write the 32-bit immediate to the register. -/
  | wr (idx : BitVec 5) (imm : Word)
  /-- `rd REG`: read the register; the value is the program's observation. -/
  | rd (idx : BitVec 5)
  /-- `wait`: poll STATUS until BUSY = 0. -/
  | wait
  deriving DecidableEq, Repr, Inhabited

/-- The pseudo-instructions of R119, one constructor per row of its table. -/
inductive Pseudo where
  | pack332 (h : Nat) (src off n : Word)
  | pack565 (h : Nat) (src off n : Word)
  | pack888 (h : Nat) (src off n : Word)
  | solve (clk ht delta : Word)
  | negotiate (clk ht cls : Word)
  | bwbpp (khz cls : Word)
  | configure (pixels bpp : Word)
  | enable
  | disable
  | submit (src w h pitch : Word)
  | clrsts
  | cmd (word : Word)
  deriving DecidableEq, Repr

end Sys2Proof
end

