-- ==== Sys2Proof/WellFormed.lean ====
section
/-!
DEFINITION. Which commands, program lines and pseudo-instructions are well formed.
-/

namespace Sys2Proof

/-- H is a 2-bit field (R112), so the handle of a PACK command is 0..3. The other commands carry no
field. -/
def Instr.wellFormed : Instr → Bool
  | .pack332 h => decide (h < 4)
  | .pack565 h => decide (h < 4)
  | .pack888 h => decide (h < 4)
  | .solve => true
  | .negotiate => true
  | .bwbpp => true
  | .configure => true
  | .enable => true
  | .disable => true
  | .submit => true
  | .clrsts => true

/-- The register of a `wr` line is CMD, ARG0..ARG3 or a reserved index (R118); `rd` names any register
and `wait` none. -/
def HostLine.wellFormed : HostLine → Bool
  | .wr idx _ =>
    idx.toNat == 0 || idx.toNat == 7 || (8 ≤ idx.toNat && idx.toNat ≤ 15) || 24 ≤ idx.toNat
  | .rd _ => true
  | .wait => true

/-- The handle of a `pack` pseudo-instruction is 0..3 (R112, R119). -/
def Pseudo.wellFormed : Pseudo → Bool
  | .pack332 h _ _ _ => decide (h < 4)
  | .pack565 h _ _ _ => decide (h < 4)
  | .pack888 h _ _ _ => decide (h < 4)
  | .solve _ _ _ => true
  | .negotiate _ _ _ => true
  | .bwbpp _ _ => true
  | .configure _ _ => true
  | .enable => true
  | .disable => true
  | .submit _ _ _ _ => true
  | .clrsts => true
  | .cmd _ => true

end Sys2Proof
end

