-- ==== Sys2Proof/Decode.lean ====
section
/-!
DEFINITION. Decoding of a command word in the order of R114, and the encoder written from the same
formats (R111, R112) and opcode map (R113).
-/

namespace Sys2Proof

/-- Why a command word names no command (R114, R115). Both are defined outcomes of the block: the command
finishes with ERR_ILLEGAL or with ERR_RESERVED. -/
inductive DecodeError where
  /-- OPC is not in the opcode map. -/
  | illegalOpcode
  /-- OPC is legal and a bit of the format's RSV field is 1. -/
  | reservedBits
  deriving DecidableEq, Repr

/-- The opcode field OPC = CMD[7:0] (R111, R112). -/
def fieldOpc (w : Word) : BitVec 8 := w.extractLsb' 0 8

/-- The handle field H = CMD[9:8] of format H, zero-extended (R112). -/
def fieldH (w : Word) : Nat := (w.extractLsb' 8 2).toNat

/-- The reserved field of format N, CMD[31:8] (R111). -/
def fieldRsvN (w : Word) : BitVec 24 := w.extractLsb' 8 24

/-- The reserved field of format H, CMD[31:10] (R112). -/
def fieldRsvH (w : Word) : BitVec 22 := w.extractLsb' 10 22

/-- A command of format N: every reserved bit must be 0 (R114 item 2). -/
def decodeN (w : Word) (i : Instr) : Except DecodeError Instr :=
  if fieldRsvN w = 0 then .ok i else .error .reservedBits

/-- A command of format H: every reserved bit must be 0 (R114 item 2). -/
def decodeH (w : Word) (i : Nat → Instr) : Except DecodeError Instr :=
  if fieldRsvH w = 0 then .ok (i (fieldH w)) else .error .reservedBits

/-- The opcode map R113 in the decoding order of R114: the opcode first, then the reserved bits. -/
def decode (w : Word) : Except DecodeError Instr :=
  match (fieldOpc w).toNat with
  | 0x01 => decodeH w .pack332
  | 0x02 => decodeH w .pack565
  | 0x03 => decodeH w .pack888
  | 0x10 => decodeN w .solve
  | 0x11 => decodeN w .negotiate
  | 0x12 => decodeN w .bwbpp
  | 0x20 => decodeN w .configure
  | 0x21 => decodeN w .enable
  | 0x22 => decodeN w .disable
  | 0x23 => decodeN w .submit
  | 0x30 => decodeN w .clrsts
  | _ => .error .illegalOpcode

/-- What the decoder reads from a table row's word: one 32-bit word (R110), its bits above `nbits` 0. -/
def decodeTableWord (nbits w : Nat) : Option Instr :=
  match decode (BitVec.ofNat 32 (w % 2 ^ nbits)) with
  | .ok i => some i
  | .error _ => none

/-- A word of format H as the assembler builds it: OPC OR (h << 8) (R112, R119). -/
def encodeH (opc h : Nat) : Word := BitVec.ofNat 32 opc ||| BitVec.ofNat 32 (h <<< 8)

/-- The command word of a command (R111-R113, R119). -/
def encode : Instr → Word
  | .pack332 h => encodeH 0x01 h
  | .pack565 h => encodeH 0x02 h
  | .pack888 h => encodeH 0x03 h
  | .solve => 0x10
  | .negotiate => 0x11
  | .bwbpp => 0x12
  | .configure => 0x20
  | .enable => 0x21
  | .disable => 0x22
  | .submit => 0x23
  | .clrsts => 0x30

end Sys2Proof
end

