-- ==== Sys2Proof/Machine/Env.lean ====
section
/-!
DEFINITION. What the environment decides: which agent takes the next step (R18, R19) and the answers
written as draws (R17): the allocator's, the bus's and the completion statuses (R96, R266).
-/

namespace Sys2Proof.Machine

/-- An allocator's answer (R210, R222). -/
inductive AllocResult where
  | ok
  | nomem
  deriving DecidableEq, Repr, Inhabited

/-- The bus layer's answer to a submission or a resubmission (R247, R248, R268). -/
inductive SubmitResult where
  | ok
  | nomem
  | error
  deriving DecidableEq, Repr, Inhabited

/-- A completion status (R96, R266). -/
inductive XferStatus where
  | ok
  | halt
  | error
  | cancelled
  deriving DecidableEq, Repr, Inhabited

/-- The answer to clearing a halt condition (R268). -/
inductive ClearResult where
  | ok
  | fail
  deriving DecidableEq, Repr, Inhabited

/-- Every answer the environment may have to give within one step. A step uses the ones its rule draws
and no other. -/
structure Answers where
  /-- The allocation draw of ENABLE or of a lazy resize. -/
  alloc : AllocResult
  /-- The bus's answer to a submission or resubmission. -/
  submit : SubmitResult
  /-- Which outstanding transfer completes (R265: "choose t in S.O"). -/
  pick : Nat
  /-- The completion status drawn. -/
  status : XferStatus
  /-- The answer to CLEAR_HALT. -/
  clear : ClearResult
  /-- Where the host software stores a byte of its own memory. -/
  addr : Word
  /-- The byte it stores. -/
  byte : Byte
  deriving DecidableEq, Repr, Inhabited

/-- Who takes a step: the four agents of R18; the host software's register port (R30) and its own memory
(R81); and the reset action (R340). -/
inductive Agent where
  | port
  | memory
  | host
  | worker
  | bus
  | drain
  | reset
  deriving DecidableEq, Repr, Inhabited

/-- One turn of the schedule: who steps and how the environment answers meanwhile. -/
structure Turn where
  who : Agent
  ans : Answers
  deriving DecidableEq, Repr, Inhabited

end Sys2Proof.Machine
end

