-- ==== Sys2Proof/Config.lean ====
section
/-!
DEFINITION. What an implementation or the environment fixes and the spec leaves open. Every constant here
is opaque: nothing in Lean can compute or prove a value of it, so a theorem holds whatever it is.
The first group are the open parameters of R9 and I10, the second the free values (draws, R17).
-/

namespace Sys2Proof.Config

/-! ### Open parameters -/

/-- P_BW_MAX[c]: maximum byte bandwidth of speed class c, in bytes per second; no value may be assumed
(R187). -/
opaque bwMax : Nat → Nat

/-- P_MPS less one, so that P_MPS > 0 (R9). -/
opaque mpsPred : Nat

/-- P_SUBMIT_RETRY_MAX (R9, R251). -/
opaque submitRetryMax : Nat

/-- P_MAX_BUF_BYTES in groups of 8 bytes, before it is brought below 2^29 groups (R9: a multiple of 8 and at
most 2^32 - 8). -/
opaque maxBufGroups : Nat

/-- P_SPEED, the bus speed class of the device (R9); no rule of the block reads it. -/
opaque speed : BitVec 3

/-- P_REG_BASE, where the register port lies in the host's address map (R91); no rule of the block reads
it. -/
opaque regBase : Word

/-! ### Free values -/

/-- The turn taken at step `tick` when State decides none: any agent, any answers (R17, R19). -/
opaque freeTurn : Nat → Machine.Turn

/-- The host software's next port access when its program is over (R30: it may access any register at any
time). -/
opaque freeLine : Nat → HostLine

/-- The byte of host memory drawn at step `tick` for an address the model knows nothing of (R81). -/
opaque hostByte : (tick addr : Nat) → Byte

/-- Which of the values a byte held during the running command a read returns (R81, I6). -/
opaque racePick : (tick addr : Nat) → Nat

/-- What a host read of RESn returns before any command has written RESn (R33, I2). -/
opaque resUnwritten : (tick n : Nat) → Word

/-- The byte drawn for offset `off` of buffer `h` by the allocation at position `born` of the event history
(R85, I4). `epoch` counts resets. -/
opaque allocByte : (epoch born h off : Nat) → Byte

/-- Which of the possible bytes a MAIN transfer carries at offset `off` (R93, I7). -/
opaque wirePick : (epoch id off : Nat) → Nat

/-- RES4 of an accepting NEGOTIATE whose ht + delta does not fit in 32 bits: R12 wants a stored value below
2^32 and R180 states none. -/
opaque res4Overflow : (sum : Nat) → Word

end Sys2Proof.Config
end

