-- ==== Sys2Proof/Machine/Params.lean ====
section
/-!
DEFINITION. The parameters of the block: those the source fixes (R8), those this interface decides (R9),
and the record of the open ones (R9, I10), which State holds so that a claim can name their values.
-/

namespace Sys2Proof.Machine

/-! ### Fixed parameters (R8, R9) -/

/-- P_XTAL_HZ. -/
def pXtalHz : Nat := 10000000

/-- P_PRESCALERS, scanned ascending. -/
def pPrescalers : List Nat := [1, 2]

/-- P_MULTIPLIERS, 1..128, scanned ascending. -/
def pMultipliers : List Nat := (List.range 128).map (· + 1)

/-- P_VCO_MIN_HZ, inclusive. -/
def pVcoMinHz : Nat := 62500000

/-- P_VCO_MAX_HZ, inclusive. -/
def pVcoMaxHz : Nat := 1000000000

/-- P_CLK_CEIL_HZ. -/
def pClkCeilHz : Nat := 500000000

/-- P_PPM_ACCEPT: a configuration is accepted when its error is below it (R182). -/
def pPpmAccept : Nat := 500

/-- P_HT_DELTA_MAX. -/
def pHtDeltaMax : Nat := 10

/-- P_BPP_MAX. -/
def pBppMax : Nat := 3

/-- P_NBUF. -/
def pNbuf : Nat := 4

/-- P_SB_MIN, the credits ENABLE pre-arms. -/
def pSbMin : Nat := 3

/-- P_SIZE_ALIGN. -/
def pSizeAlign : Nat := 8

/-- P_SWZ, the XOR of the byte-lane permutation (R144). -/
def pSwz : Nat := 4

/-- P_DIVTAB: 2, 4, 6, ..., 128 (R9, D10). -/
def pDivtab : List Nat := (List.range 64).map (fun k => 2 * (k + 1))

/-- P_SENTINEL: the error value of "no solution" (R9, R177). -/
def pSentinel : Nat := 2 ^ 64 - 1

/-- The size of the host address space, 2^P_HOST_ADDR_BITS (R9, R80). -/
def pHostSpace : Nat := 2 ^ 32

/-- roundUp(v, 8) of R12. -/
def roundUp8 (v : Nat) : Nat := (v + (pSizeAlign - 1)) / pSizeAlign * pSizeAlign

/-! ### Open parameters (R9, I10) -/

/-- The open parameters the rules read. -/
structure Params where
  /-- P_BW_MAX[0..7], bytes per second. -/
  bwMax : Vector Nat 8
  /-- P_MPS, bytes. -/
  mps : Nat
  /-- P_SUBMIT_RETRY_MAX. -/
  retryMax : Nat
  /-- P_MAX_BUF_BYTES. -/
  maxBuf : Nat
  deriving DecidableEq, Repr

/-- The constraints R9 puts on them. -/
abbrev Params.wf (p : Params) : Prop := 0 < p.mps ∧ p.maxBuf % 8 = 0 ∧ p.maxBuf ≤ 2 ^ 32 - 8

/-- The implementation's own values, about which nothing is known but the constraints. -/
def Params.ofConfig : Params where
  bwMax := Vector.ofFn fun c => Config.bwMax c
  mps := Config.mpsPred + 1
  retryMax := Config.submitRetryMax
  maxBuf := 8 * (Config.maxBufGroups % 2 ^ 29)

end Sys2Proof.Machine
end

