-- ==== Sys2Proof/Machine/State.lean ====
section
/-!
DEFINITION. The state of the block (10_state.md), the host side it reads, and its value after reset (R70).
Records group the fields as the spec's sections do; every field is plain data.
-/

namespace Sys2Proof.Machine

/-- A byte memory as a list of cells in one canonical form: addresses strictly rising. An address that is
not listed holds no value the model knows, so no entry equals what an unlisted address reads as. -/
abbrev Memory := List Host.Cell

/-- Completion codes (R300). -/
inductive Code where
  | ok
  | rejected
  | dropped
  | noop
  | errIllegal
  | errReserved
  | errContract
  | errAlign
  | errBounds
  | errNomem
  | errState
  | errArg
  | errRange
  deriving DecidableEq, Repr

/-- S.eng (R42). -/
inductive Eng where
  | idle
  | armed
  | running
  | draining
  | stopped
  deriving DecidableEq, Repr

/-- A legal number of bytes per pixel (R21): the type leaves no other value (R149). -/
inductive Bpp where
  | one
  | two
  | three
  deriving DecidableEq, Repr

/-- S.hph (R57). -/
inductive HostPhase where
  | idle
  | run
  | sbLine
  | sbCommit
  | disWait
  deriving DecidableEq, Repr

/-- S.wph (R57). -/
inductive WorkerPhase where
  | off
  | wait
  | select
  | subMain
  | subZlp
  deriving DecidableEq, Repr

/-- S.dph (R57). -/
inductive DrainPhase where
  | none
  | join
  | waitXfers
  | cancelling
  deriving DecidableEq, Repr

/-- The kind of a transfer (R53). -/
inductive XferKind where
  | main
  | zlp
  deriving DecidableEq, Repr

/-- A PLL configuration: prescaler, multiplier, divisor and function band (R46). -/
structure PllConfig where
  p : Nat
  m : Nat
  d : Nat
  band : Nat
  deriving DecidableEq, Repr

/-- The events of the history S.E, in the order of R96. -/
inductive Event where
  | bufWrite (h : Handle) (off : Nat) (v : Byte)
  | alloc (res : AllocResult)
  | realloc (h : Handle) (size : Nat) (res : AllocResult)
  | free
  | submitXfer (id : Nat) (h : Handle) (kind : XferKind) (len : Nat)
  | submitFail (h : Handle) (kind : XferKind) (res : SubmitResult)
  | complete (id : Nat) (status : XferStatus)
  | clearHalt (res : ClearResult)
  | resubmit (id : Nat) (res : SubmitResult)
  | cancelAll
  | vblank
  | fault
  | pll (cfg : PllConfig)
  deriving DecidableEq, Repr

/-- ARG0..ARG3 and RES0..RES7, each with the mark "written since reset" that R32 and R33 speak of. -/
structure Regs where
  arg : Vector Word 4
  argWritten : Vector Bool 4
  res : Vector Word 8
  resWritten : Vector Bool 8
  deriving DecidableEq, Repr

/-- The fields of STATUS (R35). -/
structure Status where
  busy : Bool
  code : Code
  streamFault : Bool
  xferErr : Bool
  cmdOverrun : Bool
  deriving DecidableEq, Repr

/-- The command latch S.cmd, S.arg (R56). -/
structure Latch where
  cmd : Word
  arg : Vector Word 4
  deriving DecidableEq, Repr

/-- The stream: engine state, enable flag, frame encoding, credits, and the Drain agent's registers
(R42-R45, R54, R57). `bpp = none` is S.bpp = 0, not configured since reset. -/
structure Stream where
  eng : Eng
  enabled : Bool
  bufSize : Nat
  bpp : Option Bpp
  credits : Nat
  dph : DrainPhase
  cancelReq : Bool
  deriving DecidableEq, Repr

/-- S.pll_valid and S.pll (R46). -/
structure PllOut where
  valid : Bool
  cfg : PllConfig
  deriving DecidableEq, Repr

/-- One transfer buffer (R49). `data` lists the bytes written since the buffer was allocated; `born` is the
position in S.E of the event that allocated it, which names the draws of its other bytes (R85). -/
structure Buffer where
  size : Nat
  data : Memory
  inFlight : Nat
  born : Nat
  deriving DecidableEq, Repr

/-- The BufferPool (R48-R55): S.nb, S.zlp_ctx, the buffers, and the queues S.R, S.T, S.W. -/
structure Pool where
  nb : Nat
  zlpCtx : Bool
  bufs : Vector Buffer 4
  r : List Handle
  t : List Handle
  w : List Handle
  deriving DecidableEq, Repr

/-- An outstanding transfer (R53). -/
structure Transfer where
  id : Nat
  h : Handle
  kind : XferKind
  len : Nat
  rs : Bool
  deriving DecidableEq, Repr

/-- S.O, in submission order, and S.next_id (R53). -/
structure BusPort where
  outs : List Transfer
  nextId : Nat
  deriving DecidableEq, Repr

/-- The Worker's phase and registers (R57). -/
structure Worker where
  wph : WorkerPhase
  cur : Handle
  needZlp : Bool
  retries : Nat
  deriving DecidableEq, Repr

/-- The SUBMIT context (R58). -/
structure SubmitCtx where
  sb : Bool
  h : Handle
  y : Nat
  src : Nat
  w : Nat
  hgt : Nat
  pitch : Nat
  bpp : Bpp
  deriving DecidableEq, Repr

/-- What stands outside the block and a step reads: host memory, the host's program, the turns decided so
far, the answers of the running step, the model's counters, and the open parameters. -/
structure Env where
  /-- Host memory as far as it is known (R80, R81). -/
  hm : Memory
  /-- Values that bytes of host memory held earlier during the running command; `none` is a value the model
  does not know (R81, I6). -/
  hmOld : List (Nat × Option Byte)
  /-- Address ranges, first and last address, that the host memory does not admit (I5). -/
  absent : List (Nat × Nat)
  /-- The host program's lines still to run (R118). -/
  prog : List HostLine
  /-- The values its `rd` lines observed, in order (R118). -/
  obs : List Word
  /-- The turns already decided, next one first. -/
  agenda : List Turn
  /-- The environment's answers for the step being taken. -/
  ans : Answers
  /-- Numbers the steps and with them the free values. -/
  tick : Nat
  /-- Counts resets. -/
  epoch : Nat
  /-- The open parameters. -/
  par : Params
  deriving DecidableEq, Repr

/-- The machine (10_state.md). -/
structure State where
  regs : Regs
  status : Status
  latch : Latch
  hph : HostPhase
  stream : Stream
  pll : PllOut
  pool : Pool
  bus : BusPort
  worker : Worker
  sub : SubmitCtx
  events : List Event
  env : Env
  deriving DecidableEq, Repr

/-- Why the machine stops. Each stop is safe: the model goes no further where the spec says the case is
stuck or cannot arise. -/
inductive Fault where
  /-- Raised by PACK332, PACK565, PACK888 and SUBMIT's line step when a host read reaches an address the
  host memory does not admit (I5: stuck). Safe. -/
  | hostReadStuck
  /-- Raised by SUBMIT's select step when the stream runs although it was never configured (I3, R149: a
  programming-contract violation that no run reaches). Safe. -/
  | bppContract
  /-- Raised by SUBMIT's and the Worker's select steps when no queue holds a buffer (R50, R220, R221: no run
  reaches it). Safe. -/
  | poolCorrupt
  deriving DecidableEq, Repr

/-- Why the model gives no meaning. -/
inductive Refusal where
  /-- Raised by an arm of `exec` whose command has no meaning yet. Safe. -/
  | notModelled (mnemonic : String)
  /-- Raised by the reset turn outside Idle and Stopped or with work pending (R341, I9: refuse). Safe. -/
  | resetWhileStreaming
  deriving DecidableEq, Repr

/-- What a step, a command or a shared operation answers. -/
abbrev Result := Host.Outcome State Fault Refusal

/-! ### Reset (R70, R340) -/

/-- The record of a buffer that does not exist. -/
def Buffer.absent : Buffer where
  size := 0
  data := []
  inFlight := 0
  born := 0

/-- ARG and RES hold no value by R70; the model names 0. DESIGN CHOICE, notes/assumptions/4.md and 5.md. -/
def Regs.reset : Regs where
  arg := Vector.replicate 4 0
  argWritten := Vector.replicate 4 false
  res := Vector.replicate 8 0
  resWritten := Vector.replicate 8 false

def Status.reset : Status where
  busy := false
  code := .ok
  streamFault := false
  xferErr := false
  cmdOverrun := false

/-- The latch holds no value by R70; the model names 0. DESIGN CHOICE, notes/assumptions/6.md. -/
def Latch.reset : Latch where
  cmd := 0
  arg := Vector.replicate 4 0

def Stream.reset : Stream where
  eng := .idle
  enabled := false
  bufSize := 0
  bpp := none
  credits := 0
  dph := .none
  cancelReq := false

def PllOut.reset : PllOut where
  valid := false
  cfg := { p := 0, m := 0, d := 0, band := 0 }

def Pool.reset : Pool where
  nb := 0
  zlpCtx := false
  bufs := Vector.replicate 4 Buffer.absent
  r := []
  t := []
  w := []

def BusPort.reset : BusPort where
  outs := []
  nextId := 0

/-- S.cur holds no value by R70; the model names 0. DESIGN CHOICE, notes/assumptions/7.md. -/
def Worker.reset : Worker where
  wph := .off
  cur := 0
  needZlp := false
  retries := 0

/-- The SUBMIT context holds no value by R70; the model names 0. DESIGN CHOICE, notes/assumptions/7.md. -/
def SubmitCtx.reset : SubmitCtx where
  sb := false
  h := 0
  y := 0
  src := 0
  w := 0
  hgt := 0
  pitch := 0
  bpp := .one

/-- Nothing known of the host yet. DESIGN CHOICE, notes/assumptions/1.md, 8.md, 9.md and 21.md. -/
def Env.reset : Env where
  hm := []
  hmOld := []
  absent := []
  prog := []
  obs := []
  agenda := []
  ans := { alloc := .ok, submit := .ok, pick := 0, status := .ok, clear := .ok, addr := 0, byte := 0 }
  tick := 0
  epoch := 0
  par := Params.ofConfig

/-- The machine right after reset (R70, R340). -/
def State.reset : State where
  regs := Regs.reset
  status := Status.reset
  latch := Latch.reset
  hph := .idle
  stream := Stream.reset
  pll := PllOut.reset
  pool := Pool.reset
  bus := BusPort.reset
  worker := Worker.reset
  sub := SubmitCtx.reset
  events := []
  env := Env.reset

end Sys2Proof.Machine
end

