-- ==== Sys2Proof/Machine/Ops.lean ====
section
/-!
DEFINITION. The named operations over memory, registers, buffers, queues and the event history: the
primitives of R13-R16, `finish` (R36), and `fatal` (R262), the one shared operation by which a fault of the
stream is taken. The block has no trap entry and no trap return (R311, R312).
-/

namespace Sys2Proof.Machine

/-! ### Byte memories -/

/-- The value listed for an address, if any. -/
def Memory.get (m : Memory) (a : Nat) : Option Byte :=
  match m with
  | [] => none
  | c :: m => if c.1 = a then some c.2 else Memory.get m a

/-- Write one byte, keeping addresses strictly rising. -/
def Memory.set (m : Memory) (a : Nat) (b : Byte) : Memory :=
  match m with
  | [] => [(a, b)]
  | c :: m =>
    if a < c.1 then (a, b) :: c :: m
    else if a = c.1 then (a, b) :: m
    else c :: Memory.set m a b

/-- Write bytes one after another, the first of the list first. -/
def Memory.setAll (m : Memory) (ws : List (Nat × Byte)) : Memory :=
  match ws with
  | [] => m
  | w :: ws => Memory.setAll (Memory.set m w.1 w.2) ws

/-- The canonical form: addresses strictly rising. -/
def Memory.wf (m : Memory) : Bool :=
  match m with
  | [] => true
  | c :: m => m.all (fun d => decide (c.1 < d.1)) && Memory.wf m

/-- Every listed address is below `n`. -/
def Memory.below (m : Memory) (n : Nat) : Bool := m.all fun c => decide (c.1 < n)

/-! ### Completion and events (R15, R36, R96) -/

/-- `finish(code)`: CODE, then BUSY clear, and the Host agent is idle again (R36). An error raised before any
state change of its command is a `finish` too (R15). -/
def finish (code : Code) (s : State) : State :=
  { s with status := { s.status with code := code, busy := false }, hph := .idle }

/-- `emit ev`: one event appended to the history (R96). -/
def emit (e : Event) (s : State) : State :=
  { s with events := s.events ++ [e] }

/-- `fatal()` (R262): STREAM_FAULT is set, FAULT is emitted, and a running stream goes to Draining with its
tear-down started. -/
def fatal (s : State) : State :=
  { s with
    status := { s.status with streamFault := true }
    events := s.events ++ [.fault]
    stream :=
      if s.stream.eng = .running then
        { s.stream with
          enabled := false
          eng := .draining
          dph := if s.stream.dph = .none then .join else s.stream.dph }
      else s.stream }

/-! ### Result registers (R33) -/

/-- `RES[i] <- v`. -/
def setRes (i : Fin 8) (v : Word) (s : State) : State :=
  { s with regs := { s.regs with res := s.regs.res.set i v, resWritten := s.regs.resWritten.set i true } }

/-! ### Buffers (R49, R84) -/

/-- Buffer `h`. -/
def Pool.buf (p : Pool) (h : Handle) : Buffer := p.bufs[h]

/-- Replace buffer `h`. -/
def Pool.setBuf (h : Handle) (b : Buffer) (p : Pool) : Pool :=
  { p with bufs := p.bufs.set h b }

/-- `BufRead(h, off)` (R14, R84): the byte last written, or the allocation's draw (R85, I4). -/
def bufRead (s : State) (h : Handle) (off : Nat) : Byte :=
  match Memory.get (s.pool.buf h).data off with
  | some b => b
  | none => Config.allocByte s.env.epoch (s.pool.buf h).born h off

/-- A run of `BufWrite(h, off, v); emit BUFWRITE(h, off, v)` (R14, R144). -/
def bufWrite (h : Handle) (ws : List (Nat × Byte)) (s : State) : State :=
  { s with
    pool := s.pool.setBuf h { s.pool.buf h with data := Memory.setAll (s.pool.buf h).data ws }
    events := s.events ++ ws.map fun w => .bufWrite h w.1 w.2 }

/-- A buffer as an allocation leaves it: `size` bytes, all of them draws (R85), `in_flight` 0 (R52). -/
def Buffer.fresh (size born : Nat) : Buffer where
  size := size
  data := []
  inFlight := 0
  born := born

/-! ### Queues (R16, R50, R51) -/

/-- The three queues' names. -/
inductive Queue where
  | render
  | transmit
  | wait
  deriving DecidableEq, Repr

/-- `remove(Q, h)`. -/
def remove (q : List Handle) (h : Handle) : List Handle := q.filter (· != h)

/-- `moveTail(h, Q)`: h leaves whichever queue holds it and is appended to Q (R16). -/
def Pool.moveTail (h : Handle) (q : Queue) (p : Pool) : Pool :=
  let r := remove p.r h
  let t := remove p.t h
  let w := remove p.w h
  match q with
  | .render => { p with r := r ++ [h], t := t, w := w }
  | .transmit => { p with r := r, t := t ++ [h], w := w }
  | .wait => { p with r := r, t := t, w := w ++ [h] }

/-- Replace in_flight(h) (R52). -/
def Pool.setInFlight (h : Handle) (n : Nat) (p : Pool) : Pool :=
  p.setBuf h { p.buf h with inFlight := n }

/-- in_flight(h) falls by `n`, and h goes to the tail of R when it reaches 0 (R250, R265). -/
def Pool.release (h : Handle) (n : Nat) (p : Pool) : Pool :=
  let k := (p.buf h).inFlight - n
  let p := p.setInFlight h k
  if k = 0 then p.moveTail h .render else p

/-! ### Host memory (R81, R82, R89) -/

/-- Whether the host memory admits every address of `[a, a + len)` (I5): no range it does not admit has an
address in common with it. -/
def hostAdmits (e : Env) (a len : Nat) : Bool :=
  e.absent.all fun g => decide (min (g.2 + 1) (a + len) ≤ max g.1 a)

/-- A value the model may not know: the byte drawn for this step (R81). -/
def hostValue (e : Env) (a : Nat) (v : Option Byte) : Byte :=
  match v with
  | some b => b
  | none => Config.hostByte e.tick a

/-- One byte of host memory as a command reads it: its value, or any value it held earlier during the
running command (R81, R89, I6). -/
def hostRead (e : Env) (a : Nat) : Byte :=
  match (e.hmOld.filter fun o => o.1 == a).map (·.2) with
  | [] => hostValue e a (Memory.get e.hm a)
  | v :: olds =>
    let all := Memory.get e.hm a :: v :: olds
    hostValue e a (all.getD (Config.racePick e.tick a % all.length) none)

/-- `MemRead(addr, 4)`: four bytes assembled little-endian (R14, R82). -/
def hostPixel (e : Env) (a : Nat) : Word :=
  hostRead e (a + 3) ++ hostRead e (a + 2) ++ hostRead e (a + 1) ++ hostRead e a

/-- The host software stores a byte of its own memory. While a command runs, the value the byte held stays
readable to that command (R81, I6). -/
def hostStore (a : Nat) (b : Byte) (s : State) : State :=
  { s with
    env := { s.env with
      hm := Memory.set s.env.hm a b
      hmOld := if s.status.busy then (a, Memory.get s.env.hm a) :: s.env.hmOld else s.env.hmOld } }

end Sys2Proof.Machine
end

