-- ==== Sys2Proof/Machine/Operands.lean ====
section
/-!
DEFINITION. Every operand form of R116: operands are the latched ARG0..ARG3 (R32, R56), read as unsigned
numbers, as a signed number (SOLVE's delta), or as a 3-bit class.
-/

namespace Sys2Proof.Machine

/-- A u32 operand (R116). -/
def argNat (s : State) (i : Fin 4) : Nat := s.latch.arg[i].toNat

/-- A signed two's complement operand (R116: delta of SOLVE). -/
def argInt (s : State) (i : Fin 4) : Int := s.latch.arg[i].toInt

/-- A bus speed class, bits 2:0 of an operand; bits 31:3 are ignored (R116). -/
def argClass (s : State) (i : Fin 4) : Fin 8 := (s.latch.arg[i].extractLsb' 0 3).toFin

/-- The number of a Bpp (R21). -/
def Bpp.toNat : Bpp → Nat
  | .one => 1
  | .two => 2
  | .three => 3

/-- The bpp operand of CONFIGURE: 1, 2 or 3, else none (R200). -/
def Bpp.ofNat? : Nat → Option Bpp
  | 1 => some .one
  | 2 => some .two
  | 3 => some .three
  | _ => none

/-- The operands of a PACK command (R116): src, off, n. -/
structure PackArgs where
  src : Nat
  off : Nat
  n : Nat

def packArgs (s : State) : PackArgs where
  src := argNat s 0
  off := argNat s 1
  n := argNat s 2

/-- The operands of SUBMIT (R116): src, width, height, pitch. -/
structure SubmitArgs where
  src : Nat
  w : Nat
  hgt : Nat
  pitch : Nat

def submitArgs (s : State) : SubmitArgs where
  src := argNat s 0
  w := argNat s 1
  hgt := argNat s 2
  pitch := argNat s 3

/-- The ARG registers a command reads (R116). -/
def argsRead : Instr → List (Fin 4)
  | .pack332 _ => [0, 1, 2]
  | .pack565 _ => [0, 1, 2]
  | .pack888 _ => [0, 1, 2]
  | .solve => [0, 1, 2]
  | .negotiate => [0, 1, 2]
  | .bwbpp => [0, 1]
  | .configure => [0, 1]
  | .enable => []
  | .disable => []
  | .submit => [0, 1, 2, 3]
  | .clrsts => []

end Sys2Proof.Machine
end

