-- ==== Sys2Proof/Machine/Flags.lean ====
section
/-!
DEFINITION. The status bits and the layouts software reads: the completion codes (R300), STATUS (R35),
ENGSTATE (R41), PLLWORD (R117) and PLL_OUT (R47). The block has no other flags (R61).
-/

namespace Sys2Proof.Machine

/-- The value of a completion code (R300). -/
def Code.toByte : Code → Byte
  | .ok => 0x00
  | .rejected => 0x01
  | .dropped => 0x02
  | .noop => 0x03
  | .errIllegal => 0x10
  | .errReserved => 0x11
  | .errContract => 0x12
  | .errAlign => 0x13
  | .errBounds => 0x14
  | .errNomem => 0x15
  | .errState => 0x16
  | .errArg => 0x17
  | .errRange => 0x18

/-- A code of class error: its value is 0x10 or more (R300, R301). -/
def Code.isError (c : Code) : Bool := decide (16 ≤ c.toByte.toNat)

/-- The STATUS register (R35). -/
def statusWord (t : Status) : Word :=
  0#13 ++ BitVec.ofBool t.cmdOverrun ++ BitVec.ofBool t.xferErr ++ BitVec.ofBool t.streamFault
    ++ t.code.toByte ++ 0#7 ++ BitVec.ofBool t.busy

/-- The encoding of S.eng (R42). -/
def Eng.toBits : Eng → BitVec 3
  | .idle => 0
  | .armed => 1
  | .running => 2
  | .draining => 3
  | .stopped => 4

/-- The encoding of S.wph (R57). -/
def WorkerPhase.toBits : WorkerPhase → BitVec 4
  | .off => 0
  | .wait => 1
  | .select => 2
  | .subMain => 3
  | .subZlp => 4

/-- The encoding of S.dph (R57). -/
def DrainPhase.toBits : DrainPhase → BitVec 4
  | .none => 0
  | .join => 1
  | .waitXfers => 2
  | .cancelling => 3

/-- The ENGSTATE register (R41). -/
def engstateWord (s : State) : Word :=
  0#16 ++ BitVec.ofBool s.sub.sb ++ BitVec.ofNat 3 s.pool.nb ++ s.stream.dph.toBits ++ s.worker.wph.toBits
    ++ BitVec.ofBool s.stream.enabled ++ s.stream.eng.toBits

/-- The BPP register: 0 when not configured (R44). -/
def bppWord (b : Option Bpp) : Word :=
  match b with
  | none => 0
  | some b => BitVec.ofNat 32 b.toNat

/-- Bits 25:0 of PLLWORD and of PLL_OUT: band, divisor, multiplier, prescaler (R47, R117). -/
def pllFields (c : PllConfig) : BitVec 26 :=
  BitVec.ofNat 2 c.band ++ BitVec.ofNat 8 c.d ++ BitVec.ofNat 8 c.m ++ BitVec.ofNat 8 c.p

/-- PLLWORD of R117: bits 31:26 are zero. -/
def pllWord (c : PllConfig) : Word := 0#6 ++ pllFields c

/-- The PLL_OUT register (R47): bit 31 is VALID, and bits 25:0 read 0 while it is 0. -/
def pllOutWord (o : PllOut) : Word :=
  if o.valid then 1#1 ++ 0#5 ++ pllFields o.cfg else 0

/-- The engine-wide sticky bits, all cleared (R230). -/
def clearSticky (s : State) : State :=
  { s with status := { s.status with streamFault := false, xferErr := false, cmdOverrun := false } }

/-- STATUS.XFER_ERR <- 1 (R39, R267). -/
def setXferErr (s : State) : State :=
  { s with status := { s.status with xferErr := true } }

end Sys2Proof.Machine
end

