-- ==== Sys2Proof/Machine/Clock.lean ====
section
/-!
DEFINITION. The ClockSolver and the ModeNegotiator (41_clocksolver.md): exact natural-number arithmetic in
micro-hertz (R170, R171), the search (R175), SOLVE, NEGOTIATE, the bandwidth policy and BWBPP.
-/

namespace Sys2Proof.Machine

/-- Micro-hertz per hertz, and parts per million (R170, R173). -/
def micro : Nat := 10 ^ 6

/-- The adjusted request r of R172, in micro-hertz; `total` is ht + delta. -/
def adjustedRequest (clk ht total : Nat) : Nat := clk * micro * total / ht

/-- vco_hz of R173. -/
def vcoHz (p m : Nat) : Nat := pXtalHz / p * m

/-- The VCO window of R173, both bounds inclusive. -/
def vcoValid (vco : Nat) : Bool := decide (pVcoMinHz ≤ vco) && decide (vco ≤ pVcoMaxHz)

/-- The achieved clock a of R173, in micro-hertz. -/
def achieved (vco d : Nat) : Nat := vco * micro / d

/-- |a - b| on naturals (R12). -/
def absDiff (a b : Nat) : Nat := (a - b) + (b - a)

/-- err of R173, in ppm. -/
def ppmError (a r : Nat) : Nat := absDiff a r * micro / r

/-- The function band of R174. -/
def band (vco : Nat) : Nat :=
  if vco < 125000000 then 0
  else if vco < 250000000 then 1
  else if vco < 500000000 then 2
  else 3

/-- `best` of R175. -/
structure Best where
  cfg : PllConfig
  err : Nat
  a : Nat
  deriving DecidableEq, Repr

/-- The initial best of R175. -/
def Best.initial : Best where
  cfg := { p := 0, m := 0, d := 0, band := 0 }
  err := pSentinel
  a := 0

/-- One candidate of the scan (R173): prescaler, multiplier and divisor. -/
structure Candidate where
  p : Nat
  m : Nat
  d : Nat
  deriving DecidableEq, Repr

/-- Every candidate whose VCO is valid, in scan order: ascending prescaler, then multiplier, then divisor
(R175). -/
def candidates : List Candidate :=
  pPrescalers.flatMap fun p => (pMultipliers.filter fun m => vcoValid (vcoHz p m)).flatMap fun m =>
    pDivtab.map fun d => { p := p, m := m, d := d }

/-- The achieved clock of a candidate (R173). -/
def Candidate.clock (c : Candidate) : Nat := achieved (vcoHz c.p c.m) c.d

/-- The error of a candidate against the request r (R173). -/
def Candidate.error (r : Nat) (c : Candidate) : Nat := ppmError c.clock r

/-- What the search records of a candidate (R175). -/
def Candidate.toBest (r : Nat) (c : Candidate) : Best where
  cfg := { p := c.p, m := c.m, d := c.d, band := band (vcoHz c.p c.m) }
  err := c.error r
  a := c.clock

/-- The scan: a candidate replaces the best only when its error is strictly smaller (R175). -/
def scan (r : Nat) : List Candidate → Best → Best
  | [], best => best
  | c :: cs, best => if c.error r < best.err then scan r cs (c.toBest r) else scan r cs best

/-- search(r) of R175. -/
def search (r : Nat) : Best := scan r candidates Best.initial

/-- The achieved clock in whole kHz, truncated (R176). -/
def kHz (a : Nat) : Nat := a / 10 ^ 9

/-- RES0..RES3 of a found configuration (R117, R176, R180). -/
def setPllRes (best : Best) (s : State) : State :=
  setRes 3 (BitVec.ofNat 32 (kHz best.a))
    (setRes 2 (BitVec.ofNat 32 (best.err / 2 ^ 32))
      (setRes 1 (BitVec.ofNat 32 best.err)
        (setRes 0 (pllWord best.cfg) s)))

/-- RES0..RES3 of "no solution" (R176, R177). -/
def setSentinelRes (s : State) : State :=
  setRes 3 0 (setRes 2 0xFFFFFFFF (setRes 1 0xFFFFFFFF (setRes 0 0 s)))

/-- The outcome of SOLVE for an adjusted request r ≥ 1 (R176). -/
def solveRequest (r : Nat) (s : State) : State :=
  let best := search r
  if best.err = pSentinel then finish .rejected (setSentinelRes s) else finish .ok (setPllRes best s)

/-- SOLVE (R176). -/
def execSolve (s : State) : Result :=
  let clk := argNat s 0
  let ht := argNat s 1
  let total : Int := (ht : Int) + argInt s 2
  if clk = 0 ∨ ht = 0 ∨ total < 1 then .next (finish .errArg s)
  else
    let r := adjustedRequest clk ht total.toNat
    if r = 0 then .next (finish .errArg s) else .next (solveRequest r s)

/-- The htotal perturbations of R179: 0, -1, +1, -2, +2, ..., -10, +10. -/
def deltas : List Int :=
  0 :: (List.range pHtDeltaMax).flatMap fun (k : Nat) => [-((k : Int) + 1), (k : Int) + 1]

/-- The bandwidth policy bw(khz, cls) of R186. -/
def bandwidthBpp (par : Params) (khz : Nat) (cls : Fin 8) : Nat :=
  if khz = 0 then 0 else min pBppMax (par.bwMax[cls] / (khz * 1000))

/-- The first perturbation whose best error is below 500 ppm (R180, R182), with its adjusted htotal. A
candidate with ht + delta < 1 or r = 0 is skipped. -/
def firstAccepted (clk ht : Nat) : List Int → Option (Int × Best)
  | [] => none
  | delta :: rest =>
    let total : Int := (ht : Int) + delta
    if total < 1 then firstAccepted clk ht rest
    else
      let r := adjustedRequest clk ht total.toNat
      if r = 0 then firstAccepted clk ht rest
      else
        let best := search r
        if best.err < pPpmAccept then some (delta, best) else firstAccepted clk ht rest

/-- RES4, the adjusted htotal (R180). A sum that does not fit in 32 bits has no stated result: a free value.
DESIGN CHOICE, notes/assumptions/15.md. -/
def adjustedTotalWord (total : Nat) : Word :=
  if total < 2 ^ 32 then BitVec.ofNat 32 total else Config.res4Overflow total

/-- What an accepting NEGOTIATE writes (R180, R181): RES0..RES7, PLL_OUT and the PLL event. -/
def acceptMode (ht : Nat) (delta : Int) (best : Best) (bpp : Nat) (s : State) : State :=
  let s := setPllRes best s
  let s := setRes 4 (adjustedTotalWord ((ht : Int) + delta).toNat) s
  let s := setRes 5 (BitVec.ofNat 32 bpp) s
  let s := setRes 6 (BitVec.ofInt 32 delta) s
  let s := setRes 7 0 s
  emit (.pll best.cfg) { s with pll := { valid := true, cfg := best.cfg } }

/-- NEGOTIATE (R180). -/
def execNegotiate (s : State) : Result :=
  let clk := argNat s 0
  let ht := argNat s 1
  if clk = 0 ∨ ht = 0 then .next (finish .errArg s)
  else if pClkCeilHz < clk then .next (finish .rejected s)
  else
    match firstAccepted clk ht deltas with
    | none => .next (finish .rejected s)
    | some (delta, best) =>
      let bpp := bandwidthBpp s.env.par (kHz best.a) (argClass s 2)
      if bpp = 0 then .next (finish .rejected s)
      else .next (finish .ok (acceptMode ht delta best bpp s))

/-- BWBPP (R185). -/
def execBwbpp (s : State) : Result :=
  .next (finish .ok (setRes 5 (BitVec.ofNat 32 (bandwidthBpp s.env.par (argNat s 0) (argClass s 1))) s))

end Sys2Proof.Machine
end

