-- ==== Sys2Proof/Machine/Pixel.lean ====
section
/-!
DEFINITION. The PixelPacker (40_pixelpacker.md): per-pixel conversions, the packed stream, the XOR-4
placement, the footprint, the checks of R146 and the three PACK commands.
-/

namespace Sys2Proof.Machine

/-- The 3-3-2 conversion (R141): the top bits of R, G and B. -/
def c332 (s : Word) : Byte := s.extractLsb' 21 3 ++ s.extractLsb' 13 3 ++ s.extractLsb' 6 2

/-- The 5-6-5 conversion (R142). -/
def c565 (s : Word) : BitVec 16 := s.extractLsb' 19 5 ++ s.extractLsb' 10 6 ++ s.extractLsb' 3 5

/-- The bytes one source pixel adds to the packed stream (R143): 5-6-5 low byte first, 8-8-8 in the order
B, G, R. -/
def packPixel (b : Bpp) (s : Word) : List Byte :=
  match b with
  | .one => [c332 s]
  | .two => [(c565 s).extractLsb' 0 8, (c565 s).extractLsb' 8 8]
  | .three => [s.extractLsb' 0 8, s.extractLsb' 8 8, s.extractLsb' 16 8]

/-- The packed stream of a scanline (R143). -/
def packedStream (b : Bpp) (px : List Word) : List Byte := px.flatMap (packPixel b)

/-- The placement of a packed stream (R144): byte i goes to base + (i XOR 4), i ascending. -/
def placement (base : Nat) (stream : List Byte) : List (Nat × Byte) :=
  stream.zipIdx.map fun x => (base + (x.2 ^^^ pSwz), x.1)

/-- maxOff(base, L) of R145, the largest offset a placement of L > 0 bytes writes. -/
def maxOff (base len : Nat) : Nat :=
  let q := len % 8
  let g := len - q
  if q = 0 then base + (len - 1)
  else if q ≤ 4 then base + g + q + 3
  else base + g + 7

/-- The n source pixels from `src` on (R150: MemRead(src + 4x, 4)). -/
def sourcePixels (e : Env) (src n : Nat) : List Word :=
  (List.range n).map fun x => hostPixel e (src + 4 * x)

/-- Pack n pixels from `src` and place them in buffer `h` at `base` (R143, R144). -/
def packLine (b : Bpp) (h : Handle) (base src n : Nat) (s : State) : State :=
  bufWrite h (placement base (packedStream b (sourcePixels s.env src n))) s

/-- The checks of R146, in order; `none` when all pass. -/
def packCheck (b : Bpp) (h : Handle) (s : State) : Option Code :=
  let a := packArgs s
  let len := a.n * b.toNat
  if s.pool.nb ≠ pNbuf then some .errState
  else if a.src % 4 ≠ 0 then some .errAlign
  else if a.n ≠ 0 ∧ pHostSpace < a.src + 4 * a.n then some .errBounds
  else if 2 ^ 32 - 1 < len then some .errBounds
  else if len ≠ 0 ∧ (s.pool.buf h).size ≤ maxOff a.off len then some .errBounds
  else none

/-- A PACK command into buffer `h` (R150-R152), one atomic step (R147). -/
def packStep (b : Bpp) (h : Handle) (s : State) : Result :=
  match packCheck b h s with
  | some code => .next (finish code s)
  | none =>
    let a := packArgs s
    if hostAdmits s.env a.src (4 * a.n) then
      .next (finish .ok (setRes 0 (BitVec.ofNat 32 (a.n * b.toNat)) (packLine b h a.off a.src a.n s)))
    else .fault .hostReadStuck

/-- A PACK command with its H field as written. An h of 4 or more does not fit the field: the word that R119
builds for it has a reserved bit set, and the command finishes ERR_RESERVED (R115). DEDUCED,
notes/assumptions/19.md. -/
def packCommand (b : Bpp) (h : Nat) (s : State) : Result :=
  if hh : h < 4 then packStep b ⟨h, hh⟩ s else .next (finish .errReserved s)

/-- PACK332 (R150). -/
def execPack332 (h : Nat) (s : State) : Result := packCommand .one h s

/-- PACK565 (R151). -/
def execPack565 (h : Nat) (s : State) : Result := packCommand .two h s

/-- PACK888 (R152). -/
def execPack888 (h : Nat) (s : State) : Result := packCommand .three h s

end Sys2Proof.Machine
end

