-- ==== Sys2Proof/Machine/Stream.lean ====
section
/-!
DEFINITION. The stream commands and the BufferPool policies (42_stream_commands.md): CONFIGURE, ENABLE,
DISABLE, the two selections, the lazy resize, SUBMIT's steps and CLRSTS.
-/

namespace Sys2Proof.Machine

/-- CONFIGURE (R200). -/
def execConfigure (s : State) : Result :=
  match Bpp.ofNat? (argNat s 1) with
  | none => .next (finish .errContract s)
  | some b =>
    let size := roundUp8 (argNat s 0 * b.toNat)
    if s.env.par.maxBuf < size then .next (finish .errRange s)
    else
      .next (finish .ok (setRes 0 (BitVec.ofNat 32 size)
        { s with stream := { s.stream with bufSize := size, bpp := some b } }))

/-- The pool as a successful allocation leaves it (R210): four fresh buffers of `size` bytes, all in R. -/
def Pool.allocated (size born : Nat) : Pool where
  nb := pNbuf
  zlpCtx := true
  bufs := Vector.replicate 4 (Buffer.fresh size born)
  r := [0, 1, 2, 3]
  t := []
  w := []

/-- ENABLE after a successful allocation (R210). The engine passes through Armed inside this one step and is
Running at its end. -/
def startStream (born : Nat) (s : State) : State :=
  { s with
    pool := Pool.allocated s.stream.bufSize born
    bus := { s.bus with outs := [] }
    stream := { s.stream with cancelReq := false, credits := pSbMin, eng := .running, enabled := true }
    worker := { s.worker with wph := .wait, retries := 0 } }

/-- ENABLE (R210-R212). -/
def execEnable (s : State) : Result :=
  if s.stream.eng = .running then .next (finish .noop s)
  else if s.stream.eng = .draining then .next (finish .errState s)
  else if s.stream.bpp = none ∨ s.stream.bufSize = 0 then .next (finish .errState s)
  else
    match s.env.ans.alloc with
    | .nomem => .next (finish .errNomem (emit (.alloc .nomem) s))
    | .ok => .next (finish .ok (startStream s.events.length (emit (.alloc .ok) s)))

/-- DISABLE (R215). Its first step starts the tear-down, or joins the one running, and leaves the Host in
DIS_WAIT, where it has no step of its own: Drain finish completes the command (R278). -/
def execDisable (s : State) : Result :=
  if s.hph = .disWait then .next s
  else if s.stream.eng = .idle ∨ s.stream.eng = .stopped then .next (finish .noop s)
  else if s.stream.eng = .running then
    .next { s with stream := { s.stream with enabled := false, eng := .draining, dph := .join }, hph := .disWait }
  else .next { s with hph := .disWait }

/-- selectForEncode() (R220). It is total while every queue condition of R50 holds. -/
def selectForEncode (p : Pool) : Option Handle :=
  match p.r with
  | h :: _ => some h
  | [] => if p.t = [] then p.w.getLast? else p.t.getLast?

/-- selectForTransmit() (R221). -/
def selectForTransmit (p : Pool) : Option Handle :=
  match p.t with
  | h :: _ => some h
  | [] => if p.r = [] then p.w.getLast? else p.r.getLast?

/-- The SUBMIT context latched by the select step, and the next Host phase (R224). -/
def beginSubmit (b : Handle) (bpp : Bpp) (s : State) : State :=
  let a := submitArgs s
  { s with
    sub := { sb := true, h := b, y := 0, src := a.src, w := a.w, hgt := a.hgt, pitch := a.pitch, bpp := bpp }
    hph := if 0 < a.w ∧ 0 < a.hgt then .sbLine else .sbCommit }

/-- A successful lazy resize of buffer `b` (R222): REALLOC(OK), the new size, fresh bytes. -/
def resized (b : Handle) (s : State) : State :=
  { emit (.realloc b s.stream.bufSize .ok) s with
    pool := s.pool.setBuf b (Buffer.fresh s.stream.bufSize s.events.length) }

/-- The end of SUBMIT's select step once every check has passed: the lazy resize of R222 where the size is
stale, then the context. -/
def submitBegin (b : Handle) (bpp : Bpp) (s : State) : State :=
  if (s.pool.buf b).size = s.stream.bufSize then beginSubmit b bpp s
  else if (s.pool.buf b).inFlight = 0 then
    match s.env.ans.alloc with
    | .ok => beginSubmit b bpp (resized b s)
    | .nomem => finish .errNomem (fatal (emit (.realloc b s.stream.bufSize .nomem) s))
  else finish .dropped s

/-- The size the chosen buffer will have after any resize (R224: sz). -/
def sizeAfterResize (b : Handle) (s : State) : Nat :=
  if (s.pool.buf b).size ≠ s.stream.bufSize ∧ (s.pool.buf b).inFlight = 0 then s.stream.bufSize
  else (s.pool.buf b).size

/-- Whether a SUBMIT of these operands would read at or past 2^32 (R87, R224). -/
abbrev SubmitArgs.readsPastEnd (a : SubmitArgs) : Prop :=
  0 < a.w ∧ 0 < a.hgt ∧ pHostSpace < a.src + (a.hgt - 1) * a.pitch + 4 * a.w

/-- Whether its lines would leave a buffer of `size` bytes (R224). -/
abbrev SubmitArgs.overflows (a : SubmitArgs) (bpp : Bpp) (size : Nat) : Prop :=
  0 < a.w ∧ 0 < a.hgt ∧ size ≤ (a.hgt - 1) * (a.w * bpp.toNat) + maxOff 0 (a.w * bpp.toNat)

/-- SUBMIT's select step (R224). -/
def submitSelect (s : State) : Result :=
  let a := submitArgs s
  if s.stream.eng ≠ .running then .next (finish .dropped s)
  else if a.src % 4 ≠ 0 ∨ a.pitch % 4 ≠ 0 then .next (finish .errAlign s)
  else if a.readsPastEnd then .next (finish .errBounds s)
  else
    match selectForEncode s.pool, s.stream.bpp with
    | none, _ => .fault .poolCorrupt
    | some _, none => .fault .bppContract
    | some b, some bpp =>
      if a.overflows bpp (sizeAfterResize b s) then .next (finish .errBounds s)
      else .next (submitBegin b bpp s)

/-- SUBMIT's line step (R225). -/
def submitLine (s : State) : Result :=
  let c := s.sub
  let src := c.src + c.y * c.pitch
  if hostAdmits s.env src (4 * c.w) then
    let s := packLine c.bpp c.h (c.y * (c.w * c.bpp.toNat)) src c.w s
    .next { s with
      sub := { s.sub with y := c.y + 1 }
      hph := if c.y + 1 = c.hgt then .sbCommit else s.hph }
  else .fault .hostReadStuck

/-- SUBMIT's commit step (R226). -/
def submitCommit (s : State) : Result :=
  .next (finish .ok (setRes 0 (BitVec.ofNat 32 s.sub.h)
    { s with pool := s.pool.moveTail s.sub.h .transmit, sub := { s.sub with sb := false } }))

/-- SUBMIT (R223): the step its phase calls for. -/
def execSubmit (s : State) : Result :=
  match s.hph with
  | .sbLine => submitLine s
  | .sbCommit => submitCommit s
  | .idle => submitSelect s
  | .run => submitSelect s
  | .disWait => submitSelect s

/-- CLRSTS (R230). -/
def execClrsts (s : State) : Result := .next (finish .ok (clearSticky s))

end Sys2Proof.Machine
end

