-- ==== Sys2Proof/Machine/Dispatch.lean ====
section
/-!
DEFINITION. The meaning of every command: the Host agent's step for it (R113, R114 item 3).
-/

namespace Sys2Proof.Machine

def exec (i : Instr) (s : State) : Host.Outcome State Fault Refusal :=
  match i with
  | .pack332 h => Sys2Proof.Machine.execPack332 h s
  | .pack565 h => Sys2Proof.Machine.execPack565 h s
  | .pack888 h => Sys2Proof.Machine.execPack888 h s
  | .solve => Sys2Proof.Machine.execSolve s
  | .negotiate => Sys2Proof.Machine.execNegotiate s
  | .bwbpp => Sys2Proof.Machine.execBwbpp s
  | .configure => Sys2Proof.Machine.execConfigure s
  | .enable => Sys2Proof.Machine.execEnable s
  | .disable => Sys2Proof.Machine.execDisable s
  | .submit => Sys2Proof.Machine.execSubmit s
  | .clrsts => Sys2Proof.Machine.execClrsts s

end Sys2Proof.Machine
end

