-- ==== Sys2Proof/Machine/Port.lean ====
section
/-!
DEFINITION. The register port (R30-R34), the host program's lines (R118) and the pseudo-instructions
(R119).
-/

namespace Sys2Proof.Machine

/-- The register at an index of the port (R30). -/
def Reg.ofIndex (i : BitVec 5) : Reg :=
  match i.toNat with
  | 0 => .cmd
  | 1 => .status
  | 2 => .engstate
  | 3 => .bufsize
  | 4 => .bpp
  | 5 => .credits
  | 6 => .pllOut
  | 8 => .arg 0
  | 9 => .arg 1
  | 10 => .arg 2
  | 11 => .arg 3
  | 16 => .res 0
  | 17 => .res 1
  | 18 => .res 2
  | 19 => .res 3
  | 20 => .res 4
  | 21 => .res 5
  | 22 => .res 6
  | 23 => .res 7
  | _ => .reserved

/-- A host read of RESn: its value, or an unspecified one before any command has written it (R33, I2). -/
def readRes (s : State) (i : Fin 8) : Word :=
  if s.regs.resWritten[i] then s.regs.res[i] else Config.resUnwritten s.env.tick i

/-- A host read of a register (R30, R31). -/
def readReg (s : State) : Reg → Word
  | .cmd => 0
  | .status => statusWord s.status
  | .engstate => engstateWord s
  | .bufsize => BitVec.ofNat 32 s.stream.bufSize
  | .bpp => bppWord s.stream.bpp
  | .credits => BitVec.ofNat 32 s.stream.credits
  | .pllOut => pllOutWord s.pll
  | .arg i => s.regs.arg[i]
  | .res i => readRes s i
  | .reserved => 0

/-- A CMD write starts command `w` (R34): the word and ARG0..ARG3 are latched and BUSY is set. -/
def startCommand (w : Word) (s : State) : State :=
  { s with
    latch := { cmd := w, arg := s.regs.arg }
    status := { s.status with busy := true }
    hph := .run
    env := { s.env with hmOld := [] } }

/-- A CMD write while a command runs is dropped (R34, R40). -/
def dropCommand (s : State) : State :=
  { s with status := { s.status with cmdOverrun := true } }

/-- A host write of an operand register (R32). -/
def writeArg (i : Fin 4) (v : Word) (s : State) : State :=
  { s with regs := { s.regs with arg := s.regs.arg.set i v, argWritten := s.regs.argWritten.set i true } }

/-- A host write of a register (R30, R31, R34). -/
def writeReg (r : Reg) (v : Word) (s : State) : State :=
  match r with
  | .cmd => if s.status.busy then dropCommand s else startCommand v s
  | .arg i => writeArg i v s
  | .status => s
  | .engstate => s
  | .bufsize => s
  | .bpp => s
  | .credits => s
  | .pllOut => s
  | .res _ => s
  | .reserved => s

/-- One line of the host's program (R118). -/
def hostLine (l : HostLine) (s : State) : State :=
  match l with
  | .wr i v => writeReg (Reg.ofIndex i) v s
  | .rd i => { s with env := { s.env with obs := s.env.obs ++ [readReg s (Reg.ofIndex i)] } }
  | .wait => s

/-- The port's turn: the next line of the program; `wait` stays until BUSY = 0 (R118). Once the program is
over the host may access the port as it likes. DESIGN CHOICE, notes/assumptions/21.md. -/
def portStep (s : State) : State :=
  match s.env.prog with
  | [] => hostLine (Config.freeLine s.env.tick) s
  | l :: rest =>
    if l = .wait ∧ s.status.busy = true then s
    else hostLine l { s with env := { s.env with prog := rest } }

/-! ### Pseudo-instructions (R119) -/

/-- Writes of ARG0, ARG1, ... in order. -/
def argLines (vs : List Word) : List HostLine :=
  vs.zipIdx.map fun x => .wr (BitVec.ofNat 5 (8 + x.2)) x.1

/-- Operand writes, the CMD write and a `wait`. -/
def commandLines (vs : List Word) (w : Word) : List HostLine :=
  argLines vs ++ [.wr 0 w, .wait]

/-- The CMD word of a `pack` pseudo-instruction: OPC OR (h << 8). -/
def packWord (opc h : Nat) : Word := BitVec.ofNat 32 opc ||| BitVec.ofNat 32 (h <<< 8)

/-- The expansion table of R119. -/
def Pseudo.expand : Pseudo → List HostLine
  | .pack332 h src off n => commandLines [src, off, n] (packWord 0x01 h)
  | .pack565 h src off n => commandLines [src, off, n] (packWord 0x02 h)
  | .pack888 h src off n => commandLines [src, off, n] (packWord 0x03 h)
  | .solve clk ht delta => commandLines [clk, ht, delta] 0x10
  | .negotiate clk ht cls => commandLines [clk, ht, cls] 0x11
  | .bwbpp khz cls => commandLines [khz, cls] 0x12
  | .configure pixels bpp => commandLines [pixels, bpp] 0x20
  | .enable => commandLines [] 0x21
  | .disable => commandLines [] 0x22
  | .submit src w h pitch => commandLines [src, w, h, pitch] 0x23
  | .clrsts => commandLines [] 0x30
  | .cmd w => [.wr 0 w]

end Sys2Proof.Machine
end

