-- ==== Sys2Proof/Machine/Transmit.lean ====
section
/-!
DEFINITION. The TransmitEngine's three agents (43_transfer_engine.md): the Worker's steps (R245-R251), the
Bus completion step with its halt recovery (R265-R269), and the Drain agent's tear-down (R270-R278). A
step whose guard does not hold leaves the state as it is.
-/

namespace Sys2Proof.Machine

/-! ### The Worker -/

/-- 1 when a companion transfer follows, else 0 (R246, R250). -/
def companions (needZlp : Bool) : Nat := if needZlp then 1 else 0

/-- The companion condition of R249. -/
def needsCompanion (par : Params) (len : Nat) : Bool := decide (len % par.mps ≠ 0)

/-- Wait step (R245): the exit wins over a credit; without credits the Worker stays. -/
def workerWait (s : State) : State :=
  if s.stream.enabled = false then { s with worker := { s.worker with wph := .off } }
  else if 0 < s.stream.credits then
    { s with
      stream := { s.stream with credits := s.stream.credits - 1 }
      worker := { s.worker with wph := .select } }
  else s

/-- What the select step does with the chosen buffer (R246). -/
def selectBuffer (b : Handle) (s : State) : State :=
  let zlp := needsCompanion s.env.par (s.pool.buf b).size
  { s with
    pool := (s.pool.moveTail b .wait).setInFlight b ((s.pool.buf b).inFlight + 1 + companions zlp)
    worker := { wph := .subMain, cur := b, needZlp := zlp, retries := 0 } }

/-- Select step (R246). -/
def workerSelect (s : State) : Result :=
  if s.stream.enabled = false then .next { s with worker := { s.worker with wph := .off } }
  else
    match selectForTransmit s.pool with
    | none => .fault .poolCorrupt
    | some b => .next (selectBuffer b s)

/-- A submission the bus accepted (R247, R248, R53, R96). -/
def accepted (kind : XferKind) (len : Nat) (wph : WorkerPhase) (s : State) : State :=
  { s with
    bus := { outs := s.bus.outs ++ [{ id := s.bus.nextId, h := s.worker.cur, kind := kind, len := len, rs := false }]
             nextId := s.bus.nextId + 1 }
    events := s.events ++ [.submitXfer s.bus.nextId s.worker.cur kind len]
    worker := { s.worker with wph := wph, retries := 0 } }

/-- How many transfers a failed submission of this kind leaves unsent (R250). -/
def unsent (kind : XferKind) (needZlp : Bool) : Nat :=
  match kind with
  | .main => 1 + companions needZlp
  | .zlp => 1

/-- Submission failure handling (R250): a bounded retry of NOMEM, else the loop stops and the stream is
taken down. -/
def submitFailed (kind : XferKind) (res : SubmitResult) (s : State) : State :=
  if res = .nomem ∧ s.worker.retries < s.env.par.retryMax then
    { s with worker := { s.worker with retries := s.worker.retries + 1 } }
  else
    fatal { s with
      pool := s.pool.release s.worker.cur (unsent kind s.worker.needZlp)
      worker := { s.worker with wph := .off } }

/-- One submission attempt: the bus's draw decides (R247, R248). -/
def submission (kind : XferKind) (len : Nat) (wph : WorkerPhase) (s : State) : State :=
  if s.env.ans.submit = .ok then accepted kind len wph s
  else submitFailed kind s.env.ans.submit (emit (.submitFail s.worker.cur kind s.env.ans.submit) s)

/-- Main submission step (R247): the length is size(b). -/
def workerMain (s : State) : State :=
  submission .main (s.pool.buf s.worker.cur).size (if s.worker.needZlp then .subZlp else .wait) s

/-- Companion submission step (R248): the length is 0. -/
def workerZlp (s : State) : State := submission .zlp 0 .wait s

/-- The Worker's step in its phase (R57). -/
def workerStep (s : State) : Result :=
  match s.worker.wph with
  | .off => .next s
  | .wait => .next (workerWait s)
  | .select => workerSelect s
  | .subMain => .next (workerMain s)
  | .subZlp => .next (workerZlp s)

/-! ### The Bus -/

/-- completeTransmit(t) (R265): the transfer is no longer outstanding, its buffer is released, and a MAIN
pulses VBLANK and returns one credit. -/
def completeTransmit (t : Transfer) (s : State) : State :=
  let s := { s with
    bus := { s.bus with outs := s.bus.outs.filter (· != t) }
    pool := s.pool.release t.h 1 }
  if t.kind = .main then
    emit .vblank { s with stream := { s.stream with credits := s.stream.credits + 1 } }
  else s

/-- The resubmitted transfer: same id, buffer, kind and length, now marked (R268). -/
def markResubmitted (t : Transfer) (s : State) : State :=
  { s with bus := { s.bus with outs := s.bus.outs.map fun u => if u = t then { t with rs := true } else u } }

/-- Halt handling (R268). -/
def haltHandling (t : Transfer) (s : State) : State :=
  if t.rs then fatal (completeTransmit t s)
  else
    let s := emit (.clearHalt s.env.ans.clear) s
    if s.env.ans.clear = .fail then fatal (completeTransmit t s)
    else
      let s := emit (.resubmit t.id s.env.ans.submit) s
      if s.env.ans.submit = .ok then markResubmitted t s else fatal (completeTransmit t s)

/-- A draw from ALLOWED(t) (R266): while cancellation is requested only OK and CANCELLED remain. -/
def allowedStatus (cancelReq : Bool) (st : XferStatus) : XferStatus :=
  match cancelReq, st with
  | false, st => st
  | true, .ok => .ok
  | true, .cancelled => .cancelled
  | true, .halt => .cancelled
  | true, .error => .cancelled

/-- The outstanding transfer that completes (R265, R266: any of them). -/
def chosenTransfer (s : State) : Option Transfer :=
  s.bus.outs[s.env.ans.pick % s.bus.outs.length]?

/-- The completion of transfer `t` with status `st` (R265, R267). -/
def completion (t : Transfer) (st : XferStatus) (s : State) : State :=
  let s := emit (.complete t.id st) s
  match st with
  | .halt => haltHandling t s
  | .error => completeTransmit t (setXferErr s)
  | .ok => completeTransmit t s
  | .cancelled => completeTransmit t s

/-- Completion step (R265). -/
def busStep (s : State) : State :=
  match chosenTransfer s with
  | none => s
  | some t => completion t (allowedStatus s.stream.cancelReq s.env.ans.status) s

/-! ### The Drain agent -/

/-- Join step (R271). -/
def drainJoin (s : State) : State :=
  { s with stream := { s.stream with dph := .waitXfers } }

/-- Force-cancel step (R276). -/
def drainCancel (s : State) : State :=
  { s with
    events := s.events ++ [.cancelAll]
    stream := { s.stream with cancelReq := true, dph := .cancelling } }

/-- What Drain finish leaves of the pool and the stream (R278). The Worker's registers go back to their reset
values, as R279 says of the whole. DEDUCED, notes/assumptions/16.md. -/
def drainFree (s : State) : State :=
  { s with
    pool := Pool.reset
    events := s.events ++ [.free]
    stream := { s.stream with credits := 0, cancelReq := false, eng := .stopped, enabled := false, dph := .none }
    worker := Worker.reset }

/-- Finish step (R278): the pool is freed and a waiting DISABLE completes. -/
def drainFinish (s : State) : State :=
  if s.hph = .disWait then finish .ok (drainFree s) else drainFree s

/-- The Drain agent's step: the guards of R271, R276 and R278. -/
def drainStep (s : State) : State :=
  match s.stream.dph with
  | .none => s
  | .join => if s.worker.wph = .off then drainJoin s else s
  | .waitXfers =>
    if s.bus.outs ≠ [] then drainCancel s else if s.sub.sb = false then drainFinish s else s
  | .cancelling => if s.bus.outs = [] ∧ s.sub.sb = false then drainFinish s else s

end Sys2Proof.Machine
end

