-- ==== Sys2Proof/Machine/Agents.lean ====
section
/-!
DEFINITION. One step of the whole machine: which turn is next (R19), the Host agent's step (R34, R114),
the reset action (R340, R341), and the step each agent takes.
-/

namespace Sys2Proof.Machine

/-- The next turn: the one State has decided, else any (R17, R19). -/
def nextTurn (e : Env) : Turn :=
  match e.agenda with
  | t :: _ => t
  | [] => Config.freeTurn e.tick

/-- The state in which the turn's step is taken: the turn is used up, its answers stand ready, and the step
has a number of its own. -/
def beginTurn (s : State) : State :=
  { s with env := { s.env with
      agenda := s.env.agenda.tail
      ans := (nextTurn s.env).ans
      tick := s.env.tick + 1 } }

/-- A command that has just started (R114): its opcode, then its reserved bits, then its rule. -/
def runCommand (s : State) : Result :=
  match decode s.latch.cmd with
  | .error .illegalOpcode => .next (finish .errIllegal s)
  | .error .reservedBits => .next (finish .errReserved s)
  | .ok i => exec i s

/-- The Host agent's step in its phase (R57). It has none while idle or while DISABLE waits. -/
def hostStep (s : State) : Result :=
  match s.hph with
  | .idle => .next s
  | .run => runCommand s
  | .sbLine => exec .submit s
  | .sbCommit => exec .submit s
  | .disWait => .next s

/-- Whether a reset is defined here: in Idle or Stopped with nothing of the stream pending (R341, I9). -/
def resetAllowed (s : State) : Bool :=
  (decide (s.stream.eng = .idle) || decide (s.stream.eng = .stopped))
    && decide (s.bus.outs = []) && decide (s.worker.wph = .off) && decide (s.stream.dph = .none)
    && !s.sub.sb && decide (s.hph ≠ .disWait)

/-- The reset action (R340): every piece of the block's state at its value of R70. What stands outside the
block stays. DEDUCED, notes/assumptions/17.md. -/
def resetBlock (s : State) : State :=
  { State.reset with env := { s.env with hmOld := [], epoch := s.env.epoch + 1 } }

/-- The reset turn (R340, R341). -/
def resetTurn (s : State) : Result :=
  if resetAllowed s then .next (resetBlock s) else .refused .resetWhileStreaming

/-- The step of one agent (R18). -/
def agentStep (a : Agent) (s : State) : Result :=
  match a with
  | .port => .next (portStep s)
  | .memory => .next (hostStore s.env.ans.addr.toNat s.env.ans.byte s)
  | .host => hostStep s
  | .worker => workerStep s
  | .bus => .next (busStep s)
  | .drain => .next (drainStep s)
  | .reset => resetTurn s

/-- One step of the machine. -/
def machineStep (s : State) : Result := agentStep (nextTurn s.env).who (beginTurn s)

/-- The state in which a CMD write of `w` has just started its command and the Host agent has the next turn;
the operands are those ARG0..ARG3 hold (R34). DESIGN CHOICE, notes/assumptions/2.md. -/
def placeCommand (w : Word) (s : State) : State :=
  let t := startCommand w s
  { t with env := { t.env with agenda := { who := .host, ans := s.env.ans } :: s.env.agenda } }

end Sys2Proof.Machine
end

