-- ==== Sys2Proof/Machine/Step.lean ====
section
/-!
DEFINITION. The step function and the placement of one command, under the names the host reads.
-/

namespace Sys2Proof.Machine

/-- One atomic step of one agent (R18, R19). -/
def step (s : State) : Host.Outcome State Fault Refusal := machineStep s

/-- `s` with the command word of a table row started, so that the next step runs it. -/
def State.withFetchWord (s : State) (nbits w : Nat) : State :=
  placeCommand (BitVec.ofNat 32 (w % 2 ^ nbits)) s

end Sys2Proof.Machine
end

