-- ==== Sys2Proof/Machine/Wire.lean ====
section
/-!
DEFINITION. What the bus carries (R93): the bytes of a MAIN transfer, read off the event history. A byte the
buffer's writes race with may be its value at the submission or any value written before the completion.
-/

namespace Sys2Proof.Machine

/-- The position of the last event of the list for which `p` holds. -/
def lastPos (p : Event → Bool) (es : List Event) : Option Nat :=
  (es.zipIdx.filter fun x => p x.1).getLast?.map (·.2)

/-- The events that start a transfer's reading of its buffer: its accepted submission, and an accepted
resubmission (R93, R268). -/
def startsReading (id : Nat) : Event → Bool
  | .submitXfer i _ _ _ => i == id
  | .resubmit i .ok => i == id
  | _ => false

/-- The ids of the accepted submissions of a list of events, in order (R53, R96). -/
def submittedIds (es : List Event) : List Nat :=
  es.filterMap fun
    | .submitXfer id _ _ _ => some id
    | _ => none

/-- The events by which buffer `h` gets fresh bytes (R85). -/
def allocates (h : Handle) : Event → Bool
  | .alloc .ok => true
  | .realloc k _ .ok => k == h
  | _ => false

/-- The values written to byte `off` of buffer `h` by the events of a list, in order (R96). -/
def writesTo (h : Handle) (off : Nat) (es : List Event) : List Byte :=
  es.filterMap fun
    | .bufWrite k o v => if k = h ∧ o = off then some v else none
    | _ => none

/-- data(h)[off] after the events of a list: the last write since the last allocation, else that
allocation's draw (R85, R93). -/
def dataAfter (epoch : Nat) (h : Handle) (off : Nat) (es : List Event) : Byte :=
  let born := (lastPos (allocates h) es).getD 0
  match (writesTo h off (es.drop born)).getLast? with
  | some v => v
  | none => Config.allocByte epoch born h off

/-- The position i of R93. -/
def readFrom (id : Nat) (es : List Event) : Option Nat := lastPos (startsReading id) es

/-- The events strictly between positions i and j of R93: up to the transfer's COMPLETE event, or to the end
while it is outstanding. -/
def window (id i : Nat) (es : List Event) : List Event :=
  (es.drop (i + 1)).takeWhile fun
    | .complete k _ => k != id
    | _ => true

/-- Every byte that transfer `id` may carry at offset `off` of buffer `h` (R93). -/
def wireChoices (s : State) (id : Nat) (h : Handle) (off : Nat) : List Byte :=
  match readFrom id s.events with
  | none => []
  | some i => dataAfter s.env.epoch h off (s.events.take i) :: writesTo h off (window id i s.events)

/-- The byte transfer `id` carries at offset `off`: any one of the choices (R93, I7); `none` when the bus never
accepted such a transfer. -/
def wireByte (s : State) (id : Nat) (h : Handle) (off : Nat) : Option Byte :=
  match wireChoices s id h off with
  | [] => none
  | [v] => some v
  | v :: vs => (v :: vs)[Config.wirePick s.env.epoch id off % (vs.length + 1)]?

/-- What transfer `id` carries: the bytes of its MAIN transfer (R88, R93), and none for a ZLP. -/
def payload (s : State) (id : Nat) : List Byte :=
  s.events.flatMap fun
    | .submitXfer i h .main len => if i = id then (List.range len).filterMap (wireByte s id h) else []
    | _ => []

end Sys2Proof.Machine
end

