-- ==== Sys2Proof/Safety.lean ====
section
/-!
DEFINITION. What claims speak of: the invariant of the machine (R62, R283 and the facts they rest on), the
host's duties (I1), and the fairness duties of R281 over runs.
-/

namespace Sys2Proof.Machine

/-! ### The invariant -/

/-- How many transfers of buffer `h` are outstanding. -/
def outstanding (s : State) (h : Handle) : Nat := s.bus.outs.countP fun t => t.h == h

/-- How many transfers the Worker has counted in in_flight(h) and not yet submitted (R52, R62 item 3). -/
def counted (s : State) (h : Handle) : Nat :=
  if s.worker.cur = h then
    match s.worker.wph with
    | .subMain => 1 + companions s.worker.needZlp
    | .subZlp => 1
    | .off => 0
    | .wait => 0
    | .select => 0
  else 0

/-- The number of MAIN transfers outstanding (R283). -/
def mainsOut (s : State) : Nat := s.bus.outs.countP fun t => t.kind == .main

/-- The credit the Worker holds between its wait step and its submission (R283). -/
def creditHeld (s : State) : Nat :=
  match s.worker.wph with
  | .select => 1
  | .subMain => 1
  | .off => 0
  | .wait => 0
  | .subZlp => 0

/-- The pool part of R62: items 1 and 2, R55, and the sizes and bytes of the buffers (R49, R84). -/
structure PoolInv (s : State) : Prop where
  nb_legal : s.pool.nb = 0 ∨ s.pool.nb = 4
  no_pool : s.pool.nb = 0 → s.pool.r = [] ∧ s.pool.t = [] ∧ s.pool.w = []
  one_queue : s.pool.nb = 4 → (s.pool.r ++ s.pool.t ++ s.pool.w).Perm [0, 1, 2, 3]
  zlp_ctx : s.pool.zlpCtx = true ↔ s.pool.nb = 4
  size_legal : ∀ h, (s.pool.buf h).size % 8 = 0 ∧ (s.pool.buf h).size ≤ s.env.par.maxBuf
  data_canonical : ∀ h, Memory.wf (s.pool.buf h).data = true
  data_inside : ∀ h, Memory.below (s.pool.buf h).data (s.pool.buf h).size = true

/-- The engine part of R62: items 4, 5 and 6, and where the phases can be (R42, R57, R240). -/
structure EngineInv (s : State) : Prop where
  enabled_iff : s.stream.enabled = true ↔ s.stream.eng = .running
  never_armed : s.stream.eng ≠ .armed
  at_rest : s.stream.eng = .idle ∨ s.stream.eng = .stopped →
    s.pool.nb = 0 ∧ s.worker.wph = .off ∧ s.stream.dph = .none ∧ s.bus.outs = [] ∧ s.stream.credits = 0
  running : s.stream.eng = .running → s.stream.dph = .none ∧ s.pool.nb = 4
  draining : s.stream.eng = .draining → s.stream.dph ≠ .none ∧ s.pool.nb = 4
  joined : s.stream.dph = .waitXfers ∨ s.stream.dph = .cancelling → s.worker.wph = .off
  cancel_iff : s.stream.cancelReq = true ↔ s.stream.dph = .cancelling
  configured : s.pool.nb = 4 → s.stream.bpp ≠ none
  buf_size : s.stream.bufSize % 8 = 0 ∧ s.stream.bufSize ≤ s.env.par.maxBuf

/-- The transfer part of R62: item 3 buffer by buffer, what each queue says of in_flight, the credit bound
R283 with its equality while the stream runs (item 7), and the numbering of transfers (R53). -/
structure TransferInv (s : State) : Prop where
  in_flight : s.pool.nb = 4 → ∀ h, (s.pool.buf h).inFlight = outstanding s h + counted s h
  render_idle : s.pool.nb = 4 → ∀ h ∈ s.pool.r, (s.pool.buf h).inFlight = 0
  wait_busy : s.pool.nb = 4 → ∀ h ∈ s.pool.w, 0 < (s.pool.buf h).inFlight
  credit_bound : s.stream.credits + mainsOut s + creditHeld s ≤ pSbMin
  credit_exact : s.stream.eng = .running → s.stream.credits + mainsOut s + creditHeld s = pSbMin
  ids_fresh : ∀ t ∈ s.bus.outs, t.id < s.bus.nextId
  ids_distinct : (s.bus.outs.map (·.id)).Nodup

/-- The command part: BUSY, the Host phase and the SUBMIT context (R36, R57, R58). -/
structure CommandInv (s : State) : Prop where
  busy_iff : s.status.busy = true ↔ s.hph ≠ .idle
  sb_iff : s.sub.sb = true ↔ s.hph = .sbLine ∨ s.hph = .sbCommit
  sb_pool : s.sub.sb = true → s.pool.nb = 4
  dis_wait : s.hph = .disWait → s.stream.eng = .draining
  line_left : s.hph = .sbLine → s.sub.y < s.sub.hgt
  line_fits : s.hph = .sbLine → s.sub.w * s.sub.bpp.toNat ≠ 0 ∧
    (s.sub.hgt - 1) * (s.sub.w * s.sub.bpp.toNat) + maxOff 0 (s.sub.w * s.sub.bpp.toNat)
      < (s.pool.buf s.sub.h).size

/-- The invariant of the machine. -/
structure Inv (s : State) : Prop where
  pool : PoolInv s
  engine : EngineInv s
  transfers : TransferInv s
  command : CommandInv s
  params : s.env.par.wf
  host_memory : Memory.wf s.env.hm = true

/-! ### What the buffers hold, read off the history (R93, R96) -/

/-- The event history tells what every allocated buffer holds: the event that allocated it, and for each
offset the last value written since (R96). -/
def HistoryTellsBuffers (s : State) : Prop :=
  s.pool.nb = 4 → ∀ h,
    lastPos (allocates h) s.events = some (s.pool.buf h).born ∧
    ∀ off, Memory.get (s.pool.buf h).data off
      = (writesTo h off (s.events.drop (s.pool.buf h).born)).getLast?

/-- The event history numbers the transfers: no two accepted submissions have one id, and every id given is below
the next one (R53). -/
def HistoryNumbersTransfers (s : State) : Prop :=
  (submittedIds s.events).Nodup ∧ ∀ id ∈ submittedIds s.events, id < s.bus.nextId

/-! ### The host's duties -/

/-- The command whose operands the latch holds reads no ARG that has not been written since reset (I1). The
spec calls the other case a fault; see notes/assumptions/4.md. -/
def operandsWritten (i : Instr) (s : State) : Bool := (argsRead i).all fun k => s.regs.argWritten[k]

/-! ### Runs and fairness (R19, R281) -/

/-- `s` with its next turn decided. -/
def withTurn (t : Turn) (s : State) : State := { s with env := { s.env with agenda := [t] } }

/-- A run under a schedule: at every state the turn the schedule names is taken and answers the next state. Every
schedule of the block is one of these (R19). -/
def IsRun (sched : Nat → Turn) (run : Nat → State) : Prop :=
  ∀ k, step (withTurn (sched k) (run k)) = .next (run (k + 1))

/-- How many of the first `k` turns of a schedule are the Host agent's. -/
def hostTurns (sched : Nat → Turn) (k : Nat) : Nat := (List.range k).countP fun j => (sched j).who == .host

/-- The Worker has a step (R245-R248). -/
def workerEnabled (s : State) : Prop :=
  match s.worker.wph with
  | .off => False
  | .wait => 0 < s.stream.credits ∨ s.stream.enabled = false
  | .select => True
  | .subMain => True
  | .subZlp => True

/-- The Drain agent has a step (R271, R276, R278). -/
def drainEnabled (s : State) : Prop :=
  match s.stream.dph with
  | .none => False
  | .join => s.worker.wph = .off
  | .waitXfers => s.bus.outs ≠ [] ∨ s.sub.sb = false
  | .cancelling => s.bus.outs = [] ∧ s.sub.sb = false

/-- The Host agent has a step (R57). -/
def hostEnabled (s : State) : Prop := s.hph = .run ∨ s.hph = .sbLine ∨ s.hph = .sbCommit

/-- Weak fairness: an agent that stays enabled is eventually scheduled. -/
def WeaklyFair (enabled : State → Prop) (a : Agent) (sched : Nat → Turn) (run : Nat → State) : Prop :=
  ∀ k, (∀ j, k ≤ j → enabled (run j)) → ∃ j, k ≤ j ∧ (sched j).who = a

/-- The duties of R281: the Host, the Worker and the Drain agent are weakly fair, and the Bus completes every
transfer that is outstanding while cancellation is requested. -/
structure Fair (sched : Nat → Turn) (run : Nat → State) : Prop where
  host : WeaklyFair hostEnabled .host sched run
  worker : WeaklyFair workerEnabled .worker sched run
  drain : WeaklyFair drainEnabled .drain sched run
  bus : ∀ k, ∀ t ∈ (run k).bus.outs, (run k).stream.cancelReq = true →
    ∃ j, k ≤ j ∧ t ∉ (run j).bus.outs

/-! ### The spec's formulas, as claims state them -/

/-- The PACK command of each format (R113). -/
def packInstr (b : Bpp) (h : Nat) : Instr :=
  match b with
  | .one => .pack332 h
  | .two => .pack565 h
  | .three => .pack888 h

/-- P[i] of R143 for the source pixels `px`. -/
def packedByte (b : Bpp) (px : Nat → Word) (i : Nat) : Byte :=
  match b with
  | .one => c332 (px i)
  | .two => (c565 (px (i / 2))).extractLsb' (8 * (i % 2)) 8
  | .three => (px (i / 3)).extractLsb' (8 * (i % 3)) 8

/-- Source pixel x of a scanline whose first pixel stands at `src` (R150, R225). -/
def linePixel (e : Env) (src x : Nat) : Word := hostPixel e (src + 4 * x)

/-- What packing n pixels from `src` into buffer `h` at offset `base` does to buffers and history, and all it does
to them (R143, R144): the bytes placed, every other byte as it was, one BUFWRITE per byte in stream order. -/
def WritesLine (b : Bpp) (h : Handle) (base src n : Nat) (s t : State) : Prop :=
  (∀ i < n * b.toNat, bufRead t h (base + (i ^^^ 4)) = packedByte b (linePixel s.env src) i) ∧
  (∀ k off, ¬ (k = h ∧ ∃ i < n * b.toNat, off = base + (i ^^^ 4)) → bufRead t k off = bufRead s k off) ∧
  t.events = s.events ++ (List.range (n * b.toNat)).map
    (fun i => .bufWrite h (base + (i ^^^ 4)) (packedByte b (linePixel s.env src) i)) ∧
  t.pool = { s.pool with bufs := t.pool.bufs } ∧
  ∀ k, (t.pool.buf k).size = (s.pool.buf k).size ∧ (t.pool.buf k).inFlight = (s.pool.buf k).inFlight ∧
    (t.pool.buf k).born = (s.pool.buf k).born

/-- The host memory admits every byte of `[a, a + len)` (I5). -/
def Admitted (e : Env) (a len : Nat) : Prop :=
  ∀ g ∈ e.absent, ∀ x, a ≤ x → x < a + len → ¬ (g.1 ≤ x ∧ x ≤ g.2)

/-- The RES registers a command may write (R117). -/
def resWrittenBy : Instr → List (Fin 8)
  | .pack332 _ => [0]
  | .pack565 _ => [0]
  | .pack888 _ => [0]
  | .solve => [0, 1, 2, 3]
  | .negotiate => [0, 1, 2, 3, 4, 5, 6, 7]
  | .bwbpp => [5]
  | .configure => [0]
  | .enable => []
  | .disable => []
  | .submit => [0]
  | .clrsts => []

/-- Of ARG and RES, only the RES registers listed may differ (R32, R33). -/
def KeepsRegs (ks : List (Fin 8)) (s t : State) : Prop :=
  t.regs.arg = s.regs.arg ∧ t.regs.argWritten = s.regs.argWritten ∧
  ∀ k, k ∉ ks → t.regs.res[k] = s.regs.res[k] ∧ t.regs.resWritten[k] = s.regs.resWritten[k]

/-- RES[k] was written with the number `n`. -/
def ResHolds (k : Fin 8) (n : Nat) (t : State) : Prop :=
  t.regs.res[k].toNat = n ∧ t.regs.resWritten[k] = true

/-- vco_hz of R173. -/
def pllVco (p m : Nat) : Nat := 10000000 / p * m

/-- The achieved clock a of R173, in micro-hertz. -/
def pllClock (p m d : Nat) : Nat := pllVco p m * 10 ^ 6 / d

/-- err of R173 against the request r, in ppm. -/
def pllError (r p m d : Nat) : Nat := ((pllClock p m d : Int) - (r : Int)).natAbs * 10 ^ 6 / r

/-- The triples the search evaluates (R8, R9, R173, R175). -/
def PllLegal (p m d : Nat) : Prop :=
  (p = 1 ∨ p = 2) ∧ 1 ≤ m ∧ m ≤ 128 ∧ 62500000 ≤ pllVco p m ∧ pllVco p m ≤ 1000000000 ∧
  2 ≤ d ∧ d ≤ 128 ∧ d % 2 = 0

/-- The scan order of R175: ascending prescaler, then multiplier, then divisor. -/
def ScanBefore (p m d p' m' d' : Nat) : Prop := p < p' ∨ (p = p' ∧ (m < m' ∨ (m = m' ∧ d < d')))

/-- The htotal perturbation of index k, 0..20 (R179): entry 2j-1 is -j, entry 2j is +j. -/
def htDelta (k : Nat) : Int := if k % 2 = 1 then -(((k + 1) / 2 : Nat) : Int) else ((k / 2 : Nat) : Int)

/-- The adjusted request of perturbation k (R172, R180). -/
def tryRequest (clk ht k : Nat) : Nat := clk * 10 ^ 6 * ((ht : Int) + htDelta k).toNat / ht

/-- Perturbation k is not skipped and its best error is below 500 ppm (R180, R182). -/
def TryAccepts (clk ht k : Nat) : Prop :=
  1 ≤ (ht : Int) + htDelta k ∧ 1 ≤ tryRequest clk ht k ∧ (search (tryRequest clk ht k)).err < 500

/-- bw(khz, cls) of R186. -/
def bwFormula (par : Params) (khz : Nat) (cls : Fin 8) : Nat :=
  if khz = 0 then 0 else min 3 (par.bwMax[cls] / (khz * 1000))

/-- PLLWORD as a number (R117). -/
def pllNumber (c : PllConfig) : Nat := c.p + c.m * 2 ^ 8 + c.d * 2 ^ 16 + c.band * 2 ^ 24

/-- What SOLVE and NEGOTIATE report of a best candidate in RES0..RES3 (R117, R176, R180). -/
def ReportsBest (best : Best) (t : State) : Prop :=
  ResHolds 0 (pllNumber best.cfg) t ∧ ResHolds 1 (best.err % 2 ^ 32) t ∧ ResHolds 2 (best.err / 2 ^ 32) t ∧
  ResHolds 3 (best.a / 10 ^ 9) t

/-- `k` steps of the Host agent with no other agent's between them. -/
def hostSteps : Nat → State → Result
  | 0, s => .next s
  | k + 1, s =>
    match hostStep s with
    | .next t => hostSteps k t
    | .fault f => .fault f
    | .refused r => .refused r

/-- A finite run: every state answers the one after it. -/
def IsFiniteRun : State → List State → Prop
  | _, [] => True
  | s, t :: ts => step s = .next t ∧ IsFiniteRun t ts

/-- A companion of buffer `h` is outstanding, or counted and not yet submitted (R284). -/
def CompanionPending (h : Handle) (s : State) : Prop :=
  (∃ t ∈ s.bus.outs, t.h = h ∧ t.kind = .zlp) ∨
  (s.worker.cur = h ∧ (s.worker.wph = .subZlp ∨ (s.worker.wph = .subMain ∧ s.worker.needZlp = true)))

/-- How many of its own steps the Worker may still take once the stream is disabled (R272). -/
def workerStepsLeft (s : State) : Nat :=
  match s.worker.wph with
  | .off => 0
  | .wait => 1
  | .select => 1
  | .subZlp => 2 + (s.env.par.retryMax - s.worker.retries)
  | .subMain => 3 + (s.env.par.retryMax - s.worker.retries) + s.env.par.retryMax

/-- The operands of a pseudo-instruction, ARG0 first (R119). -/
def Pseudo.operands : Pseudo → List Word
  | .pack332 _ src off n => [src, off, n]
  | .pack565 _ src off n => [src, off, n]
  | .pack888 _ src off n => [src, off, n]
  | .solve clk ht delta => [clk, ht, delta]
  | .negotiate clk ht cls => [clk, ht, cls]
  | .bwbpp khz cls => [khz, cls]
  | .configure pixels bpp => [pixels, bpp]
  | .enable => []
  | .disable => []
  | .submit src w h pitch => [src, w, h, pitch]
  | .clrsts => []
  | .cmd _ => []

/-- The word a pseudo-instruction writes to CMD (R119): its command's, or the one given. -/
def Pseudo.word : Pseudo → Word
  | .pack332 h _ _ _ => encode (.pack332 h)
  | .pack565 h _ _ _ => encode (.pack565 h)
  | .pack888 h _ _ _ => encode (.pack888 h)
  | .solve _ _ _ => encode .solve
  | .negotiate _ _ _ => encode .negotiate
  | .bwbpp _ _ => encode .bwbpp
  | .configure _ _ => encode .configure
  | .enable => encode .enable
  | .disable => encode .disable
  | .submit _ _ _ _ => encode .submit
  | .clrsts => encode .clrsts
  | .cmd w => w

/-- The state in which SUBMIT's select step leaves `s` once every check has passed: the context, and the phase (R224). -/
def submitBegun (b : Handle) (bpp : Bpp) (s : State) : State :=
  let w := s.latch.arg[1].toNat
  let hgt := s.latch.arg[2].toNat
  { s with
    sub := { sb := true, h := b, y := 0, src := s.latch.arg[0].toNat, w := w, hgt := hgt
             pitch := s.latch.arg[3].toNat, bpp := bpp }
    hph := if 0 < w ∧ 0 < hgt then .sbLine else .sbCommit }

end Sys2Proof.Machine
end

