-- ==== Sys2Proof/Certificates/Slice0/Obligations.lean ====
section
/-!
DEFINITION. The statements for the provers. Each docstring names the rules of spec/ it formalises. A completion
is written `finish`, whose own effect (R36, notes/assumptions/24.md) is `FinishEndsCommand`; a state
`{ s with ... }` says the whole frame.
-/

open Sys2Proof Sys2Proof.Machine

/-! ### Encoding -/

/-- R111-R113: encoding and decoding are inverse, on every well-formed command and on every word that
decodes. -/
def Obligations.DecodeEncodeAgree : Prop :=
  (∀ i : Instr, i.wellFormed = true → decode (encode i) = .ok i) ∧
  ∀ (w : Word) (i : Instr), decode w = .ok i → i.wellFormed = true ∧ encode i = w

/-- R111-R113: the words of the opcode map, with every handle, written as numbers. -/
def Obligations.OpcodeMapDecodes : Prop :=
  (∀ h : Fin 4, decode (BitVec.ofNat 32 (h * 256 + 0x01)) = .ok (.pack332 h) ∧
    decode (BitVec.ofNat 32 (h * 256 + 0x02)) = .ok (.pack565 h) ∧
    decode (BitVec.ofNat 32 (h * 256 + 0x03)) = .ok (.pack888 h)) ∧
  decode 0x00000010 = .ok .solve ∧ decode 0x00000011 = .ok .negotiate ∧ decode 0x00000012 = .ok .bwbpp ∧
  decode 0x00000020 = .ok .configure ∧ decode 0x00000021 = .ok .enable ∧ decode 0x00000022 = .ok .disable ∧
  decode 0x00000023 = .ok .submit ∧ decode 0x00000030 = .ok .clrsts

/-- R114: a word whose opcode is not in the map finishes ERR_ILLEGAL; one whose opcode is and that has a
reserved bit set finishes ERR_RESERVED; neither changes anything else. Every other word is a command. -/
def Obligations.BadWordsFinish : Prop :=
  ∀ s : State, s.hph = .run →
    let w := s.latch.cmd.toNat
    let known := w % 256 ∈ [0x01, 0x02, 0x03, 0x10, 0x11, 0x12, 0x20, 0x21, 0x22, 0x23, 0x30]
    let reserved := if w % 256 < 0x04 then w / 1024 ≠ 0 else w / 256 ≠ 0
    (¬ known → hostStep s = .next (finish .errIllegal s)) ∧
    (known → reserved → hostStep s = .next (finish .errReserved s)) ∧
    (known → ¬ reserved → ∃ i, decode s.latch.cmd = .ok i ∧ hostStep s = exec i s)

/-! ### Steps -/

/-- A step is one step of the agent whose turn it is. R18 and R19 give the four agents and their free scheduling; the
turns of the port, the host's memory and the reset beside them, `nextTurn`, and what a turn uses up of agenda, answers
and tick are the model's choice (notes/assumptions/1.md). R34, R57, R114: when the turn is the Host agent's
and the latched word decodes, the step is exec of that command in the state whose turn has begun; a running
SUBMIT goes on with its own steps; an idle Host and a waiting DISABLE take none (notes/assumptions/13.md). A command
placed by `withFetchWord` is the one the next step runs (notes/assumptions/2.md). -/
def Obligations.StepRunsDecodedCommand : Prop :=
  (∀ s : State, step s =
    match (nextTurn s.env).who with
    | .port => .next (portStep (beginTurn s))
    | .memory => .next (hostStore (nextTurn s.env).ans.addr.toNat (nextTurn s.env).ans.byte (beginTurn s))
    | .host => hostStep (beginTurn s)
    | .worker => workerStep (beginTurn s)
    | .bus => .next (busStep (beginTurn s))
    | .drain => .next (drainStep (beginTurn s))
    | .reset => resetTurn (beginTurn s)) ∧
  (∀ s : State, beginTurn s = { s with env := { s.env with
      agenda := s.env.agenda.tail, ans := (nextTurn s.env).ans, tick := s.env.tick + 1 } }) ∧
  (∀ (s : State) (i : Instr), (nextTurn s.env).who = .host → s.hph = .run → decode s.latch.cmd = .ok i →
    step s = exec i (beginTurn s)) ∧
  (∀ s : State, (nextTurn s.env).who = .host → s.hph = .sbLine ∨ s.hph = .sbCommit →
    step s = exec .submit (beginTurn s)) ∧
  (∀ s : State, (nextTurn s.env).who = .host → s.hph = .idle ∨ s.hph = .disWait →
    step s = .next (beginTurn s)) ∧
  ∀ (s : State) (i : Instr), i.wellFormed = true →
    let u := beginTurn (s.withFetchWord 32 (encode i).toNat)
    step (s.withFetchWord 32 (encode i).toNat) = exec i u ∧ u.latch.cmd = encode i ∧ u.latch.arg = s.regs.arg ∧
      u.regs = s.regs ∧ u.pool = s.pool ∧ u.stream = s.stream ∧ u.bus = s.bus ∧ u.worker = s.worker ∧
      u.events = s.events

/-! ### The register port -/

/-- R31: reads of reserved indices give 0, writes to them and to read-only registers do nothing, a read has no side
effect (the observation list is the host's). -/
def Obligations.ReservedAndReadOnlyRegisters : Prop :=
  (∀ (s : State) (i : BitVec 5), i.toNat = 7 ∨ (12 ≤ i.toNat ∧ i.toNat ≤ 15) ∨ 24 ≤ i.toNat →
    readReg s (Reg.ofIndex i) = 0) ∧
  (∀ (s : State) (i : BitVec 5) (v : Word), (1 ≤ i.toNat ∧ i.toNat ≤ 7) ∨ 12 ≤ i.toNat →
    hostLine (.wr i v) s = s) ∧
  ∀ (s : State) (i : BitVec 5),
    hostLine (.rd i) s = { s with env := { s.env with obs := s.env.obs ++ [readReg s (Reg.ofIndex i)] } }

/-- R34: a CMD write starts a command when BUSY = 0 and the Host agent's next step runs it; when BUSY = 1 the
write is dropped and sets CMD_OVERRUN. That the write and the command's first step are two steps is the model's reading
(notes/assumptions/3.md), and so is that a start forgets the bytes host memory held before
(notes/assumptions/10.md). -/
def Obligations.CommandWriteStartsOrDrops : Prop :=
  (∀ (s : State) (w : Word), s.status.busy = false → ∃ t, hostLine (.wr 0 w) s = t ∧
    t.latch.cmd = w ∧ t.latch.arg = s.regs.arg ∧ t.status = { s.status with busy := true } ∧
    t = { s with latch := t.latch, status := t.status, hph := .run, env := { s.env with hmOld := [] } } ∧
    ∀ i, decode w = .ok i → hostStep t = exec i t) ∧
  ∀ (s : State) (w : Word), s.status.busy = true →
    hostLine (.wr 0 w) s = { s with status := { s.status with cmdOverrun := true } }

/-- R32: an ARG write changes that operand register alone, at any time, and it reads back; the running command's
latched operands stay. -/
def Obligations.OperandRegisters : Prop :=
  ∀ (s : State) (k : Fin 4) (v : Word), ∃ t, hostLine (.wr (BitVec.ofNat 5 (8 + k)) v) s = t ∧
    readReg t (.arg k) = v ∧ (∀ j, j ≠ k → readReg t (.arg j) = readReg s (.arg j)) ∧
    t.latch = s.latch ∧ t = { s with regs := t.regs } ∧
    t.regs.res = s.regs.res ∧ t.regs.resWritten = s.regs.resWritten

/-- R30: what the port reads at each of the 32 indices; a RES no command has written reads as a free value (R33,
notes/assumptions/5.md), a reserved index as 0 (R31). R35, R41, R47 with the encodings of R42 and R57: the layouts of
STATUS, ENGSTATE and PLL_OUT, field by field, at indices 1, 2 and 6. -/
def Obligations.PortReads : Prop :=
  ∀ s : State,
    (let w := readReg s (Reg.ofIndex 1)
     w.getLsbD 0 = s.status.busy ∧ w.extractLsb' 1 7 = 0 ∧ w.extractLsb' 8 8 = s.status.code.toByte ∧
     w.getLsbD 16 = s.status.streamFault ∧ w.getLsbD 17 = s.status.xferErr ∧ w.getLsbD 18 = s.status.cmdOverrun ∧
     w.extractLsb' 19 13 = 0) ∧
    (let w := readReg s (Reg.ofIndex 2)
     (w.extractLsb' 0 3).toNat = (match s.stream.eng with
       | .idle => 0 | .armed => 1 | .running => 2 | .draining => 3 | .stopped => 4) ∧
     w.getLsbD 3 = s.stream.enabled ∧
     (w.extractLsb' 4 4).toNat = (match s.worker.wph with
       | .off => 0 | .wait => 1 | .select => 2 | .subMain => 3 | .subZlp => 4) ∧
     (w.extractLsb' 8 4).toNat = (match s.stream.dph with
       | .none => 0 | .join => 1 | .waitXfers => 2 | .cancelling => 3) ∧
     (s.pool.nb < 8 → (w.extractLsb' 12 3).toNat = s.pool.nb) ∧ w.getLsbD 15 = s.sub.sb ∧
     w.extractLsb' 16 16 = 0) ∧
    (let w := readReg s (Reg.ofIndex 6)
     let c := s.pll.cfg
     w.getLsbD 31 = s.pll.valid ∧ w.extractLsb' 26 5 = 0 ∧ (s.pll.valid = false → w = 0) ∧
     (s.pll.valid = true → c.p < 256 → c.m < 256 → c.d < 256 → c.band < 4 →
       w.toNat = 2 ^ 31 + pllNumber c)) ∧
    readReg s (Reg.ofIndex 0) = 0 ∧
    (s.stream.bufSize < 2 ^ 32 → (readReg s (Reg.ofIndex 3)).toNat = s.stream.bufSize) ∧
    (readReg s (Reg.ofIndex 4)).toNat = (match s.stream.bpp with
      | none => 0 | some .one => 1 | some .two => 2 | some .three => 3) ∧
    (s.stream.credits < 2 ^ 32 → (readReg s (Reg.ofIndex 5)).toNat = s.stream.credits) ∧
    (∀ k : Fin 4, readReg s (Reg.ofIndex (BitVec.ofNat 5 (8 + k))) = s.regs.arg[k]) ∧
    (∀ k : Fin 8,
      (s.regs.resWritten[k] = true → readReg s (Reg.ofIndex (BitVec.ofNat 5 (16 + k))) = s.regs.res[k]) ∧
      (s.regs.resWritten[k] = false →
        readReg s (Reg.ofIndex (BitVec.ofNat 5 (16 + k))) = Config.resUnwritten s.env.tick k)) ∧
    ∀ i : BitVec 5, i.toNat = 7 ∨ (12 ≤ i.toNat ∧ i.toNat ≤ 15) ∨ 24 ≤ i.toNat → readReg s (Reg.ofIndex i) = 0

/-- R118: the next line of a host program is run and used up; `wait` stays while a command runs
(notes/assumptions/21.md). -/
def Obligations.ProgramLines : Prop :=
  ∀ (s : State) (l : HostLine) (rest : List HostLine), s.env.prog = l :: rest →
    (l = .wait → s.status.busy = true → portStep s = s) ∧
    (l = .wait → s.status.busy = false → portStep s = { s with env := { s.env with prog := rest } }) ∧
    (l ≠ .wait → portStep s = hostLine l { s with env := { s.env with prog := rest } })

/-- R119: the lines of a pseudo-instruction, written while no command runs, start its command with its operands;
an ARG it does not name keeps its value. -/
def Obligations.PseudoStartsCommand : Prop :=
  ∀ (p : Pseudo) (s : State), p.wellFormed = true → s.status.busy = false →
    let t := (Pseudo.expand p).foldl (fun u l => hostLine l u) s
    t.status.busy = true ∧ t.hph = .run ∧ t.latch.cmd = Pseudo.word p ∧
    (∀ k : Fin 4, t.latch.arg[k] = ((Pseudo.operands p)[k.val]?).getD s.regs.arg[k]) ∧
    t.regs.res = s.regs.res ∧ t.stream = s.stream ∧ t.pool = s.pool ∧ t.bus = s.bus ∧ t.worker = s.worker

/-! ### Completion, errors and what a command leaves alone -/

/-- R36, R300: `finish` sets CODE, clears BUSY and makes the Host idle (notes/assumptions/24.md), and nothing else;
the codes have the values of the table. -/
def Obligations.FinishEndsCommand : Prop :=
  (∀ (c : Code) (s : State), finish c s =
    { s with status := { s.status with code := c, busy := false }, hph := .idle }) ∧
  Code.ok.toByte = 0x00 ∧ Code.rejected.toByte = 0x01 ∧ Code.dropped.toByte = 0x02 ∧ Code.noop.toByte = 0x03 ∧
  Code.errIllegal.toByte = 0x10 ∧ Code.errReserved.toByte = 0x11 ∧ Code.errContract.toByte = 0x12 ∧
  Code.errAlign.toByte = 0x13 ∧ Code.errBounds.toByte = 0x14 ∧ Code.errNomem.toByte = 0x15 ∧
  Code.errState.toByte = 0x16 ∧ Code.errArg.toByte = 0x17 ∧ Code.errRange.toByte = 0x18

/-- R302 with R211: a command that finishes with a code of 0x10 or more changes CODE, BUSY and the Host phase only;
ENABLE's failed allocation leaves its ALLOC event (R211, notes/assumptions/23.md), and SUBMIT's failed resize is the
exception R302 names. -/
def Obligations.ErrorsChangeNothing : Prop :=
  ∀ (i : Instr) (s t : State), exec i s = .next t → t.hph = .idle → 0x10 ≤ t.status.code.toByte.toNat →
    t = finish t.status.code s ∨
    (i = .enable ∧ t = finish .errNomem { s with events := s.events ++ [.alloc .nomem] }) ∨
    (i = .submit ∧ ∃ b, t = { s with
      status := { s.status with code := .errNomem, busy := false, streamFault := true }
      hph := .idle
      events := s.events ++ [.realloc b s.stream.bufSize .nomem, .fault]
      stream := { s.stream with
        enabled := false
        eng := .draining
        dph := if s.stream.dph = .none then .join else s.stream.dph } })

/-- R33, R117: a command leaves every RES register alone that its row of the result table does not name. -/
def Obligations.ResultRegistersKept : Prop :=
  ∀ (i : Instr) (s t : State), exec i s = .next t → KeepsRegs (resWrittenBy i) s t

/-- R80, R285, R301: no command changes host memory or anything else outside the block, the latched word and
operands, or the numbering of transfers; none puts a transfer on the bus; only NEGOTIATE changes PLL_OUT. -/
def Obligations.CommandsKeepHostSide : Prop :=
  ∀ (i : Instr) (s t : State), exec i s = .next t →
    t.env = s.env ∧ t.latch = s.latch ∧ t.bus.nextId = s.bus.nextId ∧
    (t.bus.outs = s.bus.outs ∨ (i = .enable ∧ t.bus.outs = [])) ∧ (i ≠ .negotiate → t.pll = s.pll)

/-! ### PixelPacker -/

/-- R141, R142: the conversions in mask-and-shift form; and bits 31:24 of a source pixel never matter. -/
def Obligations.PixelConversions : Prop :=
  (∀ s : Word, (c332 s).setWidth 32
    = ((s &&& 0x00E00000) >>> 16) ||| ((s &&& 0x0000E000) >>> 11) ||| ((s &&& 0x000000C0) >>> 6)) ∧
  (∀ s : Word, (c565 s).setWidth 32
    = ((s &&& 0x00F80000) >>> 8) ||| ((s &&& 0x0000FC00) >>> 5) ||| ((s &&& 0x000000F8) >>> 3)) ∧
  ∀ (b : Bpp) (s u : Word), s &&& 0x00FFFFFF = u &&& 0x00FFFFFF → packPixel b s = packPixel b u

/-- R145: maxOff is the largest offset a placement writes, and the offsets from `base` to it that are not written
are the ones the rule names. -/
def Obligations.FootprintLargest : Prop :=
  ∀ (base len : Nat), 0 < len →
    (∃ i < len, base + (i ^^^ 4) = maxOff base len) ∧ (∀ i < len, base + (i ^^^ 4) ≤ maxOff base len) ∧
    ∀ o, base ≤ o → o ≤ maxOff base len →
      let q := len % 8
      let g := len - q
      ((¬ ∃ i < len, base + (i ^^^ 4) = o) ↔
        (1 ≤ q ∧ q ≤ 4 ∧ base + g ≤ o ∧ o ≤ base + g + 3) ∨
        (5 ≤ q ∧ q ≤ 7 ∧ base + g + q - 4 ≤ o ∧ o ≤ base + g + 3))

/-- R81, R82, I6: a source pixel is four host bytes, the lowest address least significant; a byte the host has stored
and not changed during the command is read as it stands; what the host stores reads back, every other address as
before; the running command may still read what the byte held before (notes/assumptions/10.md). -/
def Obligations.HostMemoryReads : Prop :=
  (∀ (e : Env) (a : Nat), (hostPixel e a).toNat = (hostRead e a).toNat + 2 ^ 8 * (hostRead e (a + 1)).toNat
    + 2 ^ 16 * (hostRead e (a + 2)).toNat + 2 ^ 24 * (hostRead e (a + 3)).toNat) ∧
  (∀ (e : Env) (a : Nat) (v : Byte), Memory.get e.hm a = some v → (∀ o ∈ e.hmOld, o.1 ≠ a) → hostRead e a = v) ∧
  ∀ (s : State) (a : Nat) (v : Byte),
    let t := hostStore a v s
    t = { s with env := { s.env with hm := t.env.hm, hmOld := t.env.hmOld } } ∧
    Memory.get t.env.hm a = some v ∧ (∀ x, x ≠ a → Memory.get t.env.hm x = Memory.get s.env.hm x) ∧
    (Memory.wf s.env.hm = true → Memory.wf t.env.hm = true) ∧
    (s.status.busy = false → t.env.hmOld = s.env.hmOld) ∧
    ∀ old, s.status.busy = true → Memory.get s.env.hm a = some old → (∀ o ∈ s.env.hmOld, o.1 ≠ a) →
      hostRead t.env a = v ∨ hostRead t.env a = old

/-- R143-R146, R150-R152: a PACK whose checks pass and whose source bytes exist writes the scanline, RES0 and CODE,
and changes nothing else. -/
def Obligations.PackWritesScanline : Prop :=
  ∀ (b : Bpp) (h : Handle) (s : State),
    let src := s.latch.arg[0].toNat
    let off := s.latch.arg[1].toNat
    let n := s.latch.arg[2].toNat
    s.pool.nb = 4 → src % 4 = 0 → n = 0 ∨ src + 4 * n ≤ 2 ^ 32 → n * b.toNat ≤ 2 ^ 32 - 1 →
    (∀ i < n * b.toNat, off + (i ^^^ 4) < (s.pool.buf h).size) → Admitted s.env src (4 * n) →
    ∃ t, exec (packInstr b h) s = .next t ∧ WritesLine b h off src n s t ∧
      ResHolds 0 (n * b.toNat) t ∧ KeepsRegs [0] s t ∧
      t = { finish .ok s with regs := t.regs, pool := t.pool, events := t.events }

/-- R146: the checks of a PACK in their order, and that a failed one changes nothing but CODE, BUSY and the Host
phase. The bounds check is stated over the offsets themselves. -/
def Obligations.PackChecksInOrder : Prop :=
  ∀ (b : Bpp) (h : Handle) (s : State),
    let src := s.latch.arg[0].toNat
    let off := s.latch.arg[1].toNat
    let n := s.latch.arg[2].toNat
    (s.pool.nb ≠ 4 → exec (packInstr b h) s = .next (finish .errState s)) ∧
    (s.pool.nb = 4 → src % 4 ≠ 0 → exec (packInstr b h) s = .next (finish .errAlign s)) ∧
    (s.pool.nb = 4 → src % 4 = 0 → n ≠ 0 → 2 ^ 32 < src + 4 * n →
      exec (packInstr b h) s = .next (finish .errBounds s)) ∧
    (s.pool.nb = 4 → src % 4 = 0 → n = 0 ∨ src + 4 * n ≤ 2 ^ 32 →
      2 ^ 32 - 1 < n * b.toNat ∨ (∃ i < n * b.toNat, (s.pool.buf h).size ≤ off + (i ^^^ 4)) →
      exec (packInstr b h) s = .next (finish .errBounds s))

/-- I5, R81: a PACK whose checks pass is stuck, by name, when the host memory does not admit a source byte; and so is
SUBMIT's line step (notes/assumptions/11.md). -/
def Obligations.AbsentSourceIsStuck : Prop :=
  (∀ (b : Bpp) (h : Handle) (s : State), packCheck b h s = none →
    ¬ Admitted s.env s.latch.arg[0].toNat (4 * s.latch.arg[2].toNat) →
    exec (packInstr b h) s = .fault .hostReadStuck) ∧
  ∀ s : State, s.hph = .sbLine → ¬ Admitted s.env (s.sub.src + s.sub.y * s.sub.pitch) (4 * s.sub.w) →
    exec .submit s = .fault .hostReadStuck

/-! ### ClockSolver and ModeNegotiator -/

/-- R173, R174, R175: for every request of at least 1 micro-hertz the search returns the first triple in scan order
whose error no triple beats, with its band, error and clock. The sentinel of R177 is never left standing. -/
def Obligations.SearchFindsFirstBest : Prop :=
  ∀ r : Nat, 1 ≤ r → ∃ p m d, PllLegal p m d ∧ pllError r p m d < 2 ^ 64 - 1 ∧
    search r = { cfg := { p := p, m := m, d := d
                          band := if pllVco p m < 125000000 then 0 else if pllVco p m < 250000000 then 1
                            else if pllVco p m < 500000000 then 2 else 3 }
                 err := pllError r p m d, a := pllClock p m d } ∧
    (∀ p' m' d', PllLegal p' m' d' → pllError r p m d ≤ pllError r p' m' d') ∧
    ∀ p' m' d', PllLegal p' m' d' → ScanBefore p' m' d' p m d → pllError r p m d < pllError r p' m' d'

/-- R178, R47: a found configuration lies in the ranges the rules state: 65 MHz..1 GHz in steps of 5 MHz for the VCO,
507 812.5 Hz..500 MHz for the clock, and every field within PLL_OUT's. -/
def Obligations.SearchResultInRange : Prop :=
  ∀ r : Nat, 1 ≤ r →
    let c := (search r).cfg
    (c.p = 1 ∨ c.p = 2) ∧ 7 ≤ c.m ∧ c.m ≤ 128 ∧ c.d % 2 = 0 ∧ 2 ≤ c.d ∧ c.d ≤ 128 ∧ c.band ≤ 3 ∧
    65000000 ≤ pllVco c.p c.m ∧ pllVco c.p c.m ≤ 1000000000 ∧ pllVco c.p c.m % 5000000 = 0 ∧
    507812500000 ≤ (search r).a ∧ (search r).a ≤ 500000000 * 10 ^ 6

/-- R172, R176: SOLVE raises ERR_ARG or reports the best candidate of its request, whatever its error, and changes
nothing else. -/
def Obligations.SolveOutcomes : Prop :=
  ∀ s : State,
    let clk := s.latch.arg[0].toNat
    let ht := s.latch.arg[1].toNat
    let total : Int := (ht : Int) + s.latch.arg[2].toInt
    let r := clk * 10 ^ 6 * total.toNat / ht
    (clk = 0 ∨ ht = 0 ∨ total < 1 ∨ r = 0 → exec .solve s = .next (finish .errArg s)) ∧
    (clk ≠ 0 → ht ≠ 0 → 1 ≤ total → 1 ≤ r → ∃ t, exec .solve s = .next t ∧
      ReportsBest (search r) t ∧ KeepsRegs [0, 1, 2, 3] s t ∧ t = { finish .ok s with regs := t.regs })

/-- R180, R181, R182: NEGOTIATE accepts the first perturbation below 500 ppm when the bandwidth policy allows it, and
writes RES0..RES7, PLL_OUT and one PLL event, and nothing else. When ht + delta does not fit in 32 bits RES4 is a
free value (notes/assumptions/15.md) and the rest holds. -/
def Obligations.NegotiateAccepts : Prop :=
  ∀ (s : State) (k : Nat),
    let clk := s.latch.arg[0].toNat
    let ht := s.latch.arg[1].toNat
    let best := search (tryRequest clk ht k)
    let cls : Fin 8 := (s.latch.arg[2].extractLsb' 0 3).toFin
    let bpp := bwFormula s.env.par (best.a / 10 ^ 9) cls
    clk ≠ 0 → ht ≠ 0 → clk ≤ 500000000 → k ≤ 20 → TryAccepts clk ht k → (∀ j < k, ¬ TryAccepts clk ht j) →
    bpp ≠ 0 →
    ∃ t, exec .negotiate s = .next t ∧ ReportsBest best t ∧
      ((ht : Int) + htDelta k < 2 ^ 32 → ResHolds 4 ((ht : Int) + htDelta k).toNat t) ∧
      ResHolds 5 bpp t ∧ t.regs.res[6].toInt = htDelta k ∧ ResHolds 7 0 t ∧
      (∀ j : Fin 8, t.regs.resWritten[j] = true) ∧
      t.regs.arg = s.regs.arg ∧ t.regs.argWritten = s.regs.argWritten ∧
      t = { finish .ok s with
        regs := t.regs, pll := { valid := true, cfg := best.cfg }, events := s.events ++ [.pll best.cfg] }

/-- R180, R183: when NEGOTIATE raises ERR_ARG, and when it finishes REJECTED; a rejection changes no register, no
PLL_OUT bit and no event. -/
def Obligations.NegotiateRejects : Prop :=
  ∀ s : State,
    let clk := s.latch.arg[0].toNat
    let ht := s.latch.arg[1].toNat
    let cls : Fin 8 := (s.latch.arg[2].extractLsb' 0 3).toFin
    (clk = 0 ∨ ht = 0 → exec .negotiate s = .next (finish .errArg s)) ∧
    (ht ≠ 0 → 500000000 < clk → exec .negotiate s = .next (finish .rejected s)) ∧
    (clk ≠ 0 → ht ≠ 0 → (∀ k ≤ 20, ¬ TryAccepts clk ht k) → exec .negotiate s = .next (finish .rejected s)) ∧
    (clk ≠ 0 → ht ≠ 0 → ∀ k ≤ 20, TryAccepts clk ht k → (∀ j < k, ¬ TryAccepts clk ht j) →
      bwFormula s.env.par ((search (tryRequest clk ht k)).a / 10 ^ 9) cls = 0 →
      exec .negotiate s = .next (finish .rejected s))

/-- R185, R186: BWBPP writes RES5 with the bandwidth formula, a number of 0..3, and changes nothing else. -/
def Obligations.BandwidthPolicy : Prop :=
  ∀ s : State,
    let khz := s.latch.arg[0].toNat
    let cls : Fin 8 := (s.latch.arg[1].extractLsb' 0 3).toFin
    bwFormula s.env.par khz cls ≤ 3 ∧
    ∃ t, exec .bwbpp s = .next t ∧ ResHolds 5 (bwFormula s.env.par khz cls) t ∧ KeepsRegs [5] s t ∧
      t = { finish .ok s with regs := t.regs }

/-! ### Stream commands -/

/-- R200: CONFIGURE's three outcomes. The parameters meet their own constraints (R9), so that the size fits
in RES0. -/
def Obligations.ConfigureOutcomes : Prop :=
  ∀ s : State, s.env.par.wf →
    let pc := s.latch.arg[0].toNat
    let bpp := s.latch.arg[1].toNat
    let size := (pc * bpp + 7) / 8 * 8
    (bpp = 0 ∨ 3 < bpp → exec .configure s = .next (finish .errContract s)) ∧
    (1 ≤ bpp → bpp ≤ 3 → s.env.par.maxBuf < size → exec .configure s = .next (finish .errRange s)) ∧
    (1 ≤ bpp → bpp ≤ 3 → size ≤ s.env.par.maxBuf → ∃ t b, exec .configure s = .next t ∧ b.toNat = bpp ∧
      ResHolds 0 size t ∧ KeepsRegs [0] s t ∧
      t = { finish .ok s with
        regs := t.regs, stream := { s.stream with bufSize := size, bpp := some b } })

/-- R210, R211, R212: every outcome of ENABLE. The bytes of the fresh buffers are the allocation's draws (free values,
notes/assumptions/12.md). -/
def Obligations.EnableOutcomes : Prop :=
  ∀ s : State,
    (s.stream.eng = .running → exec .enable s = .next (finish .noop s)) ∧
    (s.stream.eng = .draining → exec .enable s = .next (finish .errState s)) ∧
    (s.stream.eng ≠ .running → s.stream.eng ≠ .draining → s.stream.bpp = none ∨ s.stream.bufSize = 0 →
      exec .enable s = .next (finish .errState s)) ∧
    (s.stream.eng ≠ .running → s.stream.eng ≠ .draining → s.stream.bpp ≠ none → s.stream.bufSize ≠ 0 →
      s.env.ans.alloc = .nomem →
      exec .enable s = .next (finish .errNomem { s with events := s.events ++ [.alloc .nomem] })) ∧
    (s.stream.eng ≠ .running → s.stream.eng ≠ .draining → s.stream.bpp ≠ none → s.stream.bufSize ≠ 0 →
      s.env.ans.alloc = .ok → ∃ t, exec .enable s = .next t ∧
      t.pool.nb = 4 ∧ t.pool.zlpCtx = true ∧ t.pool.r = [0, 1, 2, 3] ∧ t.pool.t = [] ∧ t.pool.w = [] ∧
      (∀ h, (t.pool.buf h).size = s.stream.bufSize ∧ (t.pool.buf h).inFlight = 0 ∧
        ∀ off, bufRead t h off = Config.allocByte s.env.epoch s.events.length h off) ∧
      t = { finish .ok s with
        pool := t.pool
        bus := { s.bus with outs := [] }
        events := s.events ++ [.alloc .ok]
        stream := { s.stream with eng := .running, enabled := true, credits := 3, cancelReq := false }
        worker := { s.worker with wph := .wait, retries := 0 } })

/-- R215, R216: DISABLE's first step. In Idle and Stopped nothing but CODE, BUSY and the Host phase changes; a running
stream starts its tear-down; a draining one is joined. While it waits, DISABLE has no step of its own. -/
def Obligations.DisableFirstStep : Prop :=
  ∀ s : State,
    (s.hph = .disWait → exec .disable s = .next s) ∧
    (s.hph ≠ .disWait → s.stream.eng = .idle ∨ s.stream.eng = .stopped →
      exec .disable s = .next (finish .noop s)) ∧
    (s.hph ≠ .disWait → s.stream.eng = .running → exec .disable s = .next { s with
      stream := { s.stream with enabled := false, eng := .draining, dph := .join }, hph := .disWait }) ∧
    (s.hph ≠ .disWait → s.stream.eng = .draining → exec .disable s = .next { s with hph := .disWait })

/-- R220, R221: both selections, clause by clause, and that they always find a buffer of the pool while every handle is
in one queue (R50). -/
def Obligations.SelectionPolicies : Prop :=
  (∀ (p : Pool) (h : Handle) (q : List Handle), p.r = h :: q → selectForEncode p = some h) ∧
  (∀ (p : Pool) (h : Handle) (q : List Handle), p.r = [] → p.t = q ++ [h] → selectForEncode p = some h) ∧
  (∀ (p : Pool) (h : Handle) (q : List Handle), p.r = [] → p.t = [] → p.w = q ++ [h] →
    selectForEncode p = some h) ∧
  (∀ (p : Pool) (h : Handle) (q : List Handle), p.t = h :: q → selectForTransmit p = some h) ∧
  (∀ (p : Pool) (h : Handle) (q : List Handle), p.t = [] → p.r = q ++ [h] → selectForTransmit p = some h) ∧
  (∀ (p : Pool) (h : Handle) (q : List Handle), p.t = [] → p.r = [] → p.w = q ++ [h] →
    selectForTransmit p = some h) ∧
  ∀ p : Pool, (p.r ++ p.t ++ p.w).Perm [0, 1, 2, 3] →
    (∃ h, selectForEncode p = some h) ∧ ∃ h, selectForTransmit p = some h

/-- R223, R224, R303: the refusals of SUBMIT's select step, in their order; each changes nothing but CODE, BUSY and the
Host phase. -/
def Obligations.SubmitRefusals : Prop :=
  ∀ s : State, s.hph ≠ .sbLine → s.hph ≠ .sbCommit →
    let src := s.latch.arg[0].toNat
    let w := s.latch.arg[1].toNat
    let hgt := s.latch.arg[2].toNat
    let pitch := s.latch.arg[3].toNat
    let past := 0 < w ∧ 0 < hgt ∧ 2 ^ 32 < src + (hgt - 1) * pitch + 4 * w
    (s.stream.eng ≠ .running → exec .submit s = .next (finish .dropped s)) ∧
    (s.stream.eng = .running → src % 4 ≠ 0 ∨ pitch % 4 ≠ 0 → exec .submit s = .next (finish .errAlign s)) ∧
    (s.stream.eng = .running → src % 4 = 0 → pitch % 4 = 0 → past →
      exec .submit s = .next (finish .errBounds s)) ∧
    (∀ b bpp, s.stream.eng = .running → src % 4 = 0 → pitch % 4 = 0 → ¬ past →
      selectForEncode s.pool = some b → s.stream.bpp = some bpp →
      let len := w * bpp.toNat
      let size := if (s.pool.buf b).size ≠ s.stream.bufSize ∧ (s.pool.buf b).inFlight = 0 then s.stream.bufSize
        else (s.pool.buf b).size
      0 < w → 0 < hgt → size ≤ (hgt - 1) * len + maxOff 0 len → exec .submit s = .next (finish .errBounds s))

/-- R222, R224: SUBMIT's select step once the checks pass: it begins, after a lazy resize where the chosen buffer is
stale and idle (fresh bytes are free values, notes/assumptions/12.md); the resize may fail and is then fatal; a stale
buffer in flight drops the frame. -/
def Obligations.SubmitBegins : Prop :=
  ∀ (s : State) (b : Handle) (bpp : Bpp), s.hph ≠ .sbLine → s.hph ≠ .sbCommit → s.stream.eng = .running →
    let src := s.latch.arg[0].toNat
    let w := s.latch.arg[1].toNat
    let hgt := s.latch.arg[2].toNat
    let pitch := s.latch.arg[3].toNat
    let len := w * bpp.toNat
    let stale := (s.pool.buf b).size ≠ s.stream.bufSize
    let size := if stale ∧ (s.pool.buf b).inFlight = 0 then s.stream.bufSize else (s.pool.buf b).size
    src % 4 = 0 → pitch % 4 = 0 → ¬ (0 < w ∧ 0 < hgt ∧ 2 ^ 32 < src + (hgt - 1) * pitch + 4 * w) →
    selectForEncode s.pool = some b → s.stream.bpp = some bpp →
    ¬ (0 < w ∧ 0 < hgt ∧ size ≤ (hgt - 1) * len + maxOff 0 len) →
    (¬ stale → exec .submit s = .next (submitBegun b bpp s)) ∧
    (stale → (s.pool.buf b).inFlight = 0 → s.env.ans.alloc = .ok → ∃ u, exec .submit s = .next (submitBegun b bpp u) ∧
      (u.pool.buf b).size = s.stream.bufSize ∧ (u.pool.buf b).inFlight = 0 ∧
      (∀ off, bufRead u b off = Config.allocByte s.env.epoch s.events.length b off) ∧
      (∀ k, k ≠ b → u.pool.buf k = s.pool.buf k) ∧ u.pool = { s.pool with bufs := u.pool.bufs } ∧
      u = { s with pool := u.pool, events := s.events ++ [.realloc b s.stream.bufSize .ok] }) ∧
    (stale → (s.pool.buf b).inFlight = 0 → s.env.ans.alloc = .nomem → exec .submit s = .next
      (finish .errNomem (fatal { s with events := s.events ++ [.realloc b s.stream.bufSize .nomem] }))) ∧
    (stale → (s.pool.buf b).inFlight ≠ 0 → exec .submit s = .next (finish .dropped s))

/-- R225: a line step packs scanline y at offset y * L with the latched operands, and changes nothing else but the
line number and, after the last line, the phase. -/
def Obligations.SubmitLineStep : Prop :=
  ∀ s : State, s.hph = .sbLine →
    let c := s.sub
    let src := c.src + c.y * c.pitch
    Admitted s.env src (4 * c.w) →
    ∃ t, exec .submit s = .next t ∧ WritesLine c.bpp c.h (c.y * (c.w * c.bpp.toNat)) src c.w s t ∧
      t = { s with
        pool := t.pool
        events := t.events
        sub := { c with y := c.y + 1 }
        hph := if c.y + 1 = c.hgt then .sbCommit else .sbLine }

/-- R226: the commit step moves the buffer to the tail of T from wherever it is, writes RES0 and finishes OK. -/
def Obligations.SubmitCommitStep : Prop :=
  ∀ s : State, s.hph = .sbCommit → ∃ t, exec .submit s = .next t ∧
    t.pool.t = s.pool.t.filter (· ≠ s.sub.h) ++ [s.sub.h] ∧
    t.pool.r = s.pool.r.filter (· ≠ s.sub.h) ∧ t.pool.w = s.pool.w.filter (· ≠ s.sub.h) ∧
    t.pool = { s.pool with r := t.pool.r, t := t.pool.t, w := t.pool.w } ∧
    ResHolds 0 s.sub.h t ∧ KeepsRegs [0] s t ∧
    t = { finish .ok s with regs := t.regs, pool := t.pool, sub := { s.sub with sb := false } }

/-- R223, R227, R361: a SUBMIT that has begun takes one Host step per remaining line and then its commit, and finishes OK
with the handle it chose in RES0: with no other agent's step between, and in every run whatever the other agents do
between its steps, a fatal event among it. -/
def Obligations.SubmitTakesLineSteps : Prop :=
  (∀ (s : State) (n : Nat), s.hph = .sbLine → s.sub.y + n = s.sub.hgt → 0 < n → s.env.absent = [] →
    ∃ u t, hostSteps n s = .next u ∧ u.hph = .sbCommit ∧ u.sub = { s.sub with y := s.sub.hgt } ∧
      hostSteps (n + 1) s = .next t ∧ t.hph = .idle ∧ t.status.code = .ok ∧ t.status.busy = false ∧
      ResHolds 0 s.sub.h t ∧ t.sub.sb = false ∧
      t.pool.t = s.pool.t.filter (· ≠ s.sub.h) ++ [s.sub.h] ∧ t.stream = s.stream ∧ t.bus = s.bus ∧
      t.worker = s.worker) ∧
  ∀ (sched : Nat → Turn) (run : Nat → State) (n : Nat), IsRun sched run → Inv (run 0) → (run 0).hph = .sbLine →
    (run 0).sub.y + n = (run 0).sub.hgt → ∀ k,
    (hostTurns sched k ≤ n →
      (run k).sub = { (run 0).sub with y := (run 0).sub.y + hostTurns sched k } ∧
      (run k).hph = (if hostTurns sched k < n then .sbLine else .sbCommit) ∧ (run k).status.busy = true) ∧
    (hostTurns sched k = n → (sched k).who = .host →
      let u := run k
      let t := run (k + 1)
      t.hph = .idle ∧ t.status.code = .ok ∧ t.status.busy = false ∧ ResHolds 0 (run 0).sub.h t ∧
      t.sub = { u.sub with sb := false } ∧ t.pool.t = u.pool.t.filter (· ≠ (run 0).sub.h) ++ [(run 0).sub.h] ∧
      t.pool.r = u.pool.r.filter (· ≠ (run 0).sub.h) ∧ t.pool.w = u.pool.w.filter (· ≠ (run 0).sub.h))

/-- R230: CLRSTS clears the three sticky bits and finishes OK, which makes the Host phase idle
(notes/assumptions/24.md), and changes nothing else. -/
def Obligations.ClearStatus : Prop :=
  ∀ s : State, exec .clrsts s = .next { s with
    status := { busy := false, code := .ok, streamFault := false, xferErr := false, cmdOverrun := false }
    hph := .idle }

/-! ### The TransmitEngine's agents -/

/-- R245: the Worker's wait step. That a turn without an enabled step changes nothing is the model's
(notes/assumptions/13.md). -/
def Obligations.WorkerWaitStep : Prop :=
  ∀ s : State, s.worker.wph = .wait →
    (s.stream.enabled = false → workerStep s = .next { s with worker := { s.worker with wph := .off } }) ∧
    (s.stream.enabled = true → 0 < s.stream.credits → workerStep s = .next { s with
      stream := { s.stream with credits := s.stream.credits - 1 }
      worker := { s.worker with wph := .select } }) ∧
    (s.stream.enabled = true → s.stream.credits = 0 → workerStep s = .next s)

/-- R246: the Worker's select step. -/
def Obligations.WorkerSelectStep : Prop :=
  ∀ s : State, s.worker.wph = .select →
    (s.stream.enabled = false → workerStep s = .next { s with worker := { s.worker with wph := .off } }) ∧
    ∀ b, s.stream.enabled = true → selectForTransmit s.pool = some b →
      let zlp : Bool := (s.pool.buf b).size % s.env.par.mps ≠ 0
      ∃ t, workerStep s = .next t ∧ t.worker = { wph := .subMain, cur := b, needZlp := zlp, retries := 0 } ∧
        t.pool.w = s.pool.w.filter (· ≠ b) ++ [b] ∧ t.pool.r = s.pool.r.filter (· ≠ b) ∧
        t.pool.t = s.pool.t.filter (· ≠ b) ∧
        t.pool.buf b = { s.pool.buf b with
          inFlight := (s.pool.buf b).inFlight + 1 + (if zlp then 1 else 0) } ∧
        (∀ k, k ≠ b → t.pool.buf k = s.pool.buf k) ∧ t.pool.nb = s.pool.nb ∧ t.pool.zlpCtx = s.pool.zlpCtx ∧
        t = { s with pool := t.pool, worker := t.worker }

/-- R247, R248, R88: an accepted submission, MAIN with the buffer's size or companion with length 0. -/
def Obligations.SubmissionAccepted : Prop :=
  ∀ s : State, s.env.ans.submit = .ok →
    (s.worker.wph = .subMain →
      let size := (s.pool.buf s.worker.cur).size
      workerStep s = .next { s with
        bus := { outs := s.bus.outs ++
                   [{ id := s.bus.nextId, h := s.worker.cur, kind := .main, len := size, rs := false }]
                 nextId := s.bus.nextId + 1 }
        events := s.events ++ [.submitXfer s.bus.nextId s.worker.cur .main size]
        worker := { s.worker with retries := 0, wph := if s.worker.needZlp then .subZlp else .wait } }) ∧
    (s.worker.wph = .subZlp → workerStep s = .next { s with
      bus := { outs := s.bus.outs ++
                 [{ id := s.bus.nextId, h := s.worker.cur, kind := .zlp, len := 0, rs := false }]
               nextId := s.bus.nextId + 1 }
      events := s.events ++ [.submitXfer s.bus.nextId s.worker.cur .zlp 0]
      worker := { s.worker with retries := 0, wph := .wait } })

/-- R250: a failed submission: a bounded retry after NOMEM, else the counter falls by what will never be sent, an
idle buffer goes to the tail of R, the loop stops and the stream is taken down. -/
def Obligations.SubmissionFailed : Prop :=
  ∀ (s : State) (k : XferKind), s.env.ans.submit ≠ .ok →
    (k = .main ∧ s.worker.wph = .subMain) ∨ (k = .zlp ∧ s.worker.wph = .subZlp) →
    let b := s.worker.cur
    let failed := s.events ++ [.submitFail b k s.env.ans.submit]
    let sent := if k = .main ∧ s.worker.needZlp = true then 2 else 1
    (s.env.ans.submit = .nomem → s.worker.retries < s.env.par.retryMax → workerStep s = .next { s with
      events := failed, worker := { s.worker with retries := s.worker.retries + 1 } }) ∧
    (s.env.ans.submit = .error ∨ s.env.par.retryMax ≤ s.worker.retries → ∃ t, workerStep s = .next (fatal t) ∧
      t.pool.buf b = { s.pool.buf b with inFlight := (s.pool.buf b).inFlight - sent } ∧
      (∀ j, j ≠ b → t.pool.buf j = s.pool.buf j) ∧
      ((s.pool.buf b).inFlight ≤ sent →
        t.pool.r = s.pool.r.filter (· ≠ b) ++ [b] ∧ t.pool.t = s.pool.t.filter (· ≠ b) ∧
        t.pool.w = s.pool.w.filter (· ≠ b)) ∧
      (sent < (s.pool.buf b).inFlight → t.pool.r = s.pool.r ∧ t.pool.t = s.pool.t ∧ t.pool.w = s.pool.w) ∧
      t.pool.nb = s.pool.nb ∧ t.pool.zlpCtx = s.pool.zlpCtx ∧
      t = { s with pool := t.pool, events := failed, worker := { s.worker with wph := .off } })

/-- R262: the fatal-to-stream action. -/
def Obligations.FatalAction : Prop :=
  ∀ s : State,
    (s.stream.eng = .running → fatal s = { s with
      status := { s.status with streamFault := true }
      events := s.events ++ [.fault]
      stream := { s.stream with
        enabled := false
        eng := .draining
        dph := if s.stream.dph = .none then .join else s.stream.dph } }) ∧
    (s.stream.eng ≠ .running → fatal s = { s with
      status := { s.status with streamFault := true }, events := s.events ++ [.fault] })

/-- R272: once the stream is disabled every Worker step that is not the last brings the Worker nearer to OFF. -/
def Obligations.WorkerReachesOff : Prop :=
  ∀ s t : State, s.stream.enabled = false → s.worker.wph ≠ .off → workerStep s = .next t →
    workerStepsLeft t < workerStepsLeft s ∧ t.stream.enabled = false ∧
    workerStepsLeft s ≤ 3 + 2 * s.env.par.retryMax

/-- R265, R266: a Bus step completes one outstanding transfer with a status of its set, and every outstanding transfer
can complete with every status of its set; a Bus turn with nothing outstanding changes nothing
(notes/assumptions/13.md). -/
def Obligations.AnyTransferMayComplete : Prop :=
  (∀ s : State, s.bus.outs = [] → busStep s = s) ∧
  (∀ s : State, s.bus.outs ≠ [] → ∃ x ∈ s.bus.outs, ∃ st,
    (s.stream.cancelReq = true → st = .ok ∨ st = .cancelled) ∧ busStep s = completion x st s) ∧
  ∀ (s : State) (x : Transfer) (st : XferStatus), x ∈ s.bus.outs →
    (s.stream.cancelReq = true → st = .ok ∨ st = .cancelled) →
    ∃ pick, let u : State := { s with env := { s.env with ans := { s.env.ans with pick := pick, status := st } } }
      busStep u = completion x st u

/-- R267, and completeTransmit of R265: what a completion other than HALT does, and all it does. -/
def Obligations.CompletionEffects : Prop :=
  ∀ (s : State) (x : Transfer) (st : XferStatus), st ≠ .halt →
    let t := completion x st s
    t.bus = { s.bus with outs := s.bus.outs.filter (· ≠ x) } ∧
    t.pool.buf x.h = { s.pool.buf x.h with inFlight := (s.pool.buf x.h).inFlight - 1 } ∧
    (∀ k, k ≠ x.h → t.pool.buf k = s.pool.buf k) ∧
    ((s.pool.buf x.h).inFlight ≤ 1 →
      t.pool.r = s.pool.r.filter (· ≠ x.h) ++ [x.h] ∧ t.pool.t = s.pool.t.filter (· ≠ x.h) ∧
      t.pool.w = s.pool.w.filter (· ≠ x.h)) ∧
    (1 < (s.pool.buf x.h).inFlight → t.pool.r = s.pool.r ∧ t.pool.t = s.pool.t ∧ t.pool.w = s.pool.w) ∧
    t.pool.nb = s.pool.nb ∧ t.pool.zlpCtx = s.pool.zlpCtx ∧
    t.events = s.events ++ .complete x.id st :: (if x.kind = .main then [.vblank] else []) ∧
    t = { s with
      bus := t.bus
      pool := t.pool
      events := t.events
      status := { s.status with xferErr := s.status.xferErr || st = .error }
      stream := { s.stream with credits := s.stream.credits + (if x.kind = .main then 1 else 0) } }

/-- R268, R308: halt handling in its four cases. -/
def Obligations.HaltHandling : Prop :=
  ∀ (s : State) (x : Transfer),
    let halted := s.events ++ [.complete x.id .halt]
    let cleared := halted ++ [.clearHalt s.env.ans.clear]
    let retried := cleared ++ [.resubmit x.id s.env.ans.submit]
    (x.rs = true → completion x .halt s = fatal (completeTransmit x { s with events := halted })) ∧
    (x.rs = false → s.env.ans.clear = .fail →
      completion x .halt s = fatal (completeTransmit x { s with events := cleared })) ∧
    (x.rs = false → s.env.ans.clear = .ok → s.env.ans.submit ≠ .ok →
      completion x .halt s = fatal (completeTransmit x { s with events := retried })) ∧
    (x.rs = false → s.env.ans.clear = .ok → s.env.ans.submit = .ok → completion x .halt s = { s with
      events := retried
      bus := { s.bus with outs := s.bus.outs.map fun u => if u = x then { x with rs := true } else u } })

/-- R270, R271, R276, R278: the Drain agent's join and force-cancel steps; where no guard holds its turn changes nothing
(notes/assumptions/13.md). -/
def Obligations.DrainSteps : Prop :=
  ∀ s : State,
    (s.stream.dph = .none → drainStep s = s) ∧
    (s.stream.dph = .join → s.worker.wph ≠ .off → drainStep s = s) ∧
    (s.stream.dph = .join → s.worker.wph = .off →
      drainStep s = { s with stream := { s.stream with dph := .waitXfers } }) ∧
    (s.stream.dph = .waitXfers → s.bus.outs ≠ [] → drainStep s = { s with
      events := s.events ++ [.cancelAll], stream := { s.stream with cancelReq := true, dph := .cancelling } }) ∧
    (s.stream.dph = .cancelling → s.bus.outs ≠ [] → drainStep s = s) ∧
    (s.stream.dph = .waitXfers ∨ s.stream.dph = .cancelling → s.bus.outs = [] → s.sub.sb = true →
      drainStep s = s)

/-- R278, R279: Drain finish frees the pool, leaves the stream fields as reset leaves them but for the negotiated
encoding and the engine's state, and completes a waiting DISABLE. That the Worker's own registers return to their
reset values is the model's reading of R279 (notes/assumptions/16.md). -/
def Obligations.DrainFinish : Prop :=
  ∀ s : State, s.stream.dph = .waitXfers ∨ s.stream.dph = .cancelling → s.bus.outs = [] → s.sub.sb = false →
    ∃ t, drainStep s = t ∧
      t.stream = { State.reset.stream with eng := .stopped, bufSize := s.stream.bufSize, bpp := s.stream.bpp } ∧
      t.pool = State.reset.pool ∧ t.worker = State.reset.worker ∧ t.events = s.events ++ [.free] ∧
      (s.hph = .disWait → t = { finish .ok s with
        stream := t.stream, pool := t.pool, worker := t.worker, events := t.events }) ∧
      (s.hph ≠ .disWait → t = { s with
        stream := t.stream, pool := t.pool, worker := t.worker, events := t.events })

/-! ### The whole machine -/

/-- R70, R340: the values reset gives, for every piece of state that has one. -/
def Obligations.ResetValues : Prop :=
  let s := State.reset
  s.stream.eng = .idle ∧ s.stream.enabled = false ∧ s.stream.bufSize = 0 ∧ s.stream.bpp = none ∧
  s.stream.credits = 0 ∧ s.stream.dph = .none ∧ s.stream.cancelReq = false ∧
  readReg s (Reg.ofIndex 1) = 0 ∧ readReg s (Reg.ofIndex 2) = 0 ∧ readReg s (Reg.ofIndex 6) = 0 ∧
  s.pll = { valid := false, cfg := { p := 0, m := 0, d := 0, band := 0 } } ∧
  s.pool.nb = 0 ∧ s.pool.zlpCtx = false ∧ s.pool.r = [] ∧ s.pool.t = [] ∧ s.pool.w = [] ∧
  s.bus.outs = [] ∧ s.bus.nextId = 0 ∧ s.hph = .idle ∧ s.worker.wph = .off ∧ s.worker.needZlp = false ∧
  s.worker.retries = 0 ∧ s.sub.sb = false ∧ s.events = [] ∧
  (∀ k : Fin 4, s.regs.argWritten[k] = false) ∧ (∀ k : Fin 8, s.regs.resWritten[k] = false) ∧
  Memory.wf s.env.hm = true

/-- R340, R341: a reset turn sets the block to its reset state when the engine is Idle or Stopped and nothing of the
stream is pending, and is refused otherwise. What stands outside the block stays, but that the reset uses up its turn
(notes/assumptions/1.md), is counted, and forgets the bytes host memory held before (notes/assumptions/17.md). -/
def Obligations.ResetTurn : Prop :=
  ∀ s : State, (nextTurn s.env).who = .reset →
    let quiet := (s.stream.eng = .idle ∨ s.stream.eng = .stopped) ∧ s.bus.outs = [] ∧ s.worker.wph = .off ∧
      s.stream.dph = .none ∧ s.sub.sb = false ∧ s.hph ≠ .disWait
    (quiet → step s = .next { State.reset with env :=
      { hm := s.env.hm, absent := s.env.absent, prog := s.env.prog, obs := s.env.obs, par := s.env.par
        agenda := s.env.agenda.tail, ans := (nextTurn s.env).ans, tick := s.env.tick + 1
        hmOld := [], epoch := s.env.epoch + 1 } }) ∧
    (¬ quiet → step s = .refused .resetWhileStreaming)

/-- R62, R70: the reset state meets the invariant, and its history tells the buffers and numbers the transfers. -/
def Obligations.ResetMeetsInvariant : Prop :=
  Inv State.reset ∧ HistoryTellsBuffers State.reset ∧ HistoryNumbersTransfers State.reset

/-- R62, R283 and the facts they rest on: every step, of any agent with any answers, keeps the invariant. -/
def Obligations.StepKeepsInvariant : Prop :=
  ∀ s t : State, Inv s → step s = .next t → Inv t

/-- R96, R53: every step keeps that the event history tells what each allocated buffer holds, and that it numbers the
transfers. -/
def Obligations.StepKeepsHistory : Prop :=
  (∀ s t : State, HistoryTellsBuffers s → step s = .next t → HistoryTellsBuffers t) ∧
  ∀ s t : State, HistoryNumbersTransfers s → step s = .next t → HistoryNumbersTransfers t

/-- R220, R221, R287, R149: from a state that meets the invariant, with a host memory that admits every address, every
turn but a reset is answered by a next state; the two faults of an impossible pool or format never happen, and no
command is refused. -/
def Obligations.StepAlwaysAnswers : Prop :=
  (∀ s : State, Inv s → step s ≠ .fault .poolCorrupt ∧ step s ≠ .fault .bppContract) ∧
  (∀ s : State, Inv s → s.env.absent = [] → (nextTurn s.env).who ≠ .reset → ∃ t, step s = .next t) ∧
  ∀ (i : Instr) (s : State) (r : Refusal), exec i s ≠ .refused r

/-- R240, R43: the engine changes state only by the transitions of the table, each by the agent and command it names,
and the enabled flag is true exactly in Running. -/
def Obligations.EngineTransitions : Prop :=
  ∀ s t : State, Inv s → step s = .next t →
    let who := (nextTurn s.env).who
    let runs (i : Instr) := who = .host ∧ s.hph = .run ∧ decode s.latch.cmd = .ok i
    (t.stream.enabled = true ↔ t.stream.eng = .running) ∧
    (t.stream.eng = s.stream.eng ∨
     ((s.stream.eng = .idle ∨ s.stream.eng = .stopped) ∧ t.stream.eng = .running ∧ runs .enable ∧
       t.events = s.events ++ [.alloc .ok]) ∨
     (s.stream.eng = .running ∧ t.stream.eng = .draining ∧
       (runs .disable ∨ (t.status.streamFault = true ∧ t.events.getLast? = some .fault ∧ t.events ≠ s.events))) ∨
     (s.stream.eng = .draining ∧ t.stream.eng = .stopped ∧ who = .drain ∧ t.events = s.events ++ [.free]) ∨
     (t.stream.eng = .idle ∧ who = .reset))

/-- R34, R36-R40: what may change each bit of STATUS in one step. That the Host phase is idle once a command has
finished is the model's reading (notes/assumptions/24.md). -/
def Obligations.StatusBitsChangeByRule : Prop :=
  ∀ s t : State, step s = .next t →
    let who := (nextTurn s.env).who
    let clears := who = .reset ∨ (who = .host ∧ s.hph = .run ∧ decode s.latch.cmd = .ok .clrsts)
    let new := t.events.drop s.events.length
    (s.status.streamFault = true → t.status.streamFault = false → clears) ∧
    (s.status.xferErr = true → t.status.xferErr = false → clears) ∧
    (s.status.cmdOverrun = true → t.status.cmdOverrun = false → clears) ∧
    (s.status.streamFault = false → t.status.streamFault = true → .fault ∈ new) ∧
    (who ≠ .reset → Event.fault ∈ new → t.status.streamFault = true) ∧
    (s.status.xferErr = false → t.status.xferErr = true → who = .bus ∧ ∃ id, .complete id .error ∈ new) ∧
    (s.status.cmdOverrun = false → t.status.cmdOverrun = true → who = .port ∧ s.status.busy = true) ∧
    (s.status.busy = false → t.status.busy = true → who = .port ∧ t.hph = .run) ∧
    (t.status.code ≠ s.status.code ∨ (s.status.busy = true ∧ t.status.busy = false) →
      t.hph = .idle ∧ t.status.busy = false ∧ (who = .host ∨ who = .drain ∨ who = .reset))

/-- R59, R96, R285: a step never changes the open parameters (R9); one that is no reset only appends to the event
history; and one that numbers a transfer is the Worker's, in one of its submission phases. -/
def Obligations.HistoryOnlyGrows : Prop :=
  ∀ s t : State, step s = .next t →
    t.env.par = s.env.par ∧ ((nextTurn s.env).who ≠ .reset → ∃ es, t.events = s.events ++ es) ∧
    ((nextTurn s.env).who ≠ .reset → t.bus.nextId ≠ s.bus.nextId →
      (nextTurn s.env).who = .worker ∧ (s.worker.wph = .subMain ∨ s.worker.wph = .subZlp) ∧
      t.bus.nextId = s.bus.nextId + 1)

/-- R93, R88: an accepted MAIN of length L of buffer h carries exactly L bytes, those of h at the offsets below L in
order, and a ZLP carries none. Each byte is the buffer's when the transfer was last submitted or resubmitted, or one written
between then and its completion; and exactly the former when none was (the choice is free,
notes/assumptions/18.md). -/
def Obligations.WireBytes : Prop :=
  (∀ (s : State) (id : Nat) (h : Handle) (kind : XferKind) (len : Nat), HistoryNumbersTransfers s →
    .submitXfer id h kind len ∈ s.events →
    (kind = .zlp → payload s id = []) ∧
    (kind = .main → (payload s id).length = len ∧ ∀ off < len, (payload s id)[off]? = wireByte s id h off)) ∧
  ∀ (s : State) (id i : Nat) (h : Handle) (off : Nat),
    (∃ e, s.events[i]? = some e ∧ startsReading id e = true) →
    (∀ j e, i < j → s.events[j]? = some e → startsReading id e = false) →
    let atStart := dataAfter s.env.epoch h off (s.events.take i)
    let between (x : Byte) := ∃ k, i < k ∧ s.events[k]? = some (.bufWrite h off x) ∧
      ∀ j st, i < j → j < k → s.events[j]? ≠ some (.complete id st)
    (∃ x, wireByte s id h off = some x ∧ (x = atStart ∨ between x)) ∧
    ((∀ x, ¬ between x) → wireByte s id h off = some atStart)

/-- R93, R95, R100: a MAIN transfer, just accepted, carries every byte of its buffer as the buffer holds it. -/
def Obligations.AcceptedTransferCarriesBuffer : Prop :=
  ∀ s t : State, Inv s → HistoryTellsBuffers s → s.worker.wph = .subMain → s.env.ans.submit = .ok →
    workerStep s = .next t →
    ∀ off < (s.pool.buf s.worker.cur).size,
      wireByte t s.bus.nextId s.worker.cur off = some (bufRead s s.worker.cur off)

/-- R282, with the fairness of R281 as a predicate on runs (notes/assumptions/22.md): in every fair run without a reset,
a DISABLE that has started finishes: NOOP, or OK after Drain finish,
whatever the bus answers before cancellation. -/
def Obligations.DisableTerminates : Prop :=
  ∀ (sched : Nat → Turn) (run : Nat → State), IsRun sched run → Fair sched run →
    (∀ k, (sched k).who ≠ .reset) → Inv (run 0) → (run 0).hph = .run → decode (run 0).latch.cmd = .ok .disable →
    ∃ k, (run k).hph = .idle ∧ (run k).status.busy = false ∧
      ((run k).status.code = .noop ∨ ((run k).status.code = .ok ∧ (run k).stream.eng = .stopped ∧
        (run k).pool.nb = 0 ∧ (run k).bus.outs = []))

/-- R284 as the spec derives it: while all buffers have the same size modulo P_MPS, two transfers of one buffer in flight
imply a companion of it that is outstanding or counted. The rules do not give it: a companion may complete before
its MAIN (R266), and selectForTransmit may then send the same buffer again. -/
def Obligations.InFlightAboveOneNeedsCompanion : Prop :=
  ∀ (s : State) (run : List State), Inv s → s.pool.nb = 4 → (∀ h, (s.pool.buf h).inFlight = 0) →
    IsFiniteRun s run →
    (∀ u ∈ s :: run, u.pool.nb = 4 ∧ ∀ h k,
      (u.pool.buf h).size % u.env.par.mps = (u.pool.buf k).size % u.env.par.mps) →
    ∀ u ∈ run, ∀ h, 2 ≤ (u.pool.buf h).inFlight → CompanionPending h u
end

