-- ==== Sys2Proof/Laws/State.lean ====
section
/-!
SUPPORT. One lemma per field for every named update of the state, each true by rfl: a later proof reads the
field it wants and never unfolds a record update.
-/

namespace Sys2Proof.Machine

variable (s : State)


/-! ### `finish` -/

@[simp] theorem finish_regs (c : Code) : (finish c s).regs = s.regs := rfl
@[simp] theorem finish_status (c : Code) : (finish c s).status = { s.status with code := c, busy := false } := rfl
@[simp] theorem finish_latch (c : Code) : (finish c s).latch = s.latch := rfl
@[simp] theorem finish_hph (c : Code) : (finish c s).hph = .idle := rfl
@[simp] theorem finish_stream (c : Code) : (finish c s).stream = s.stream := rfl
@[simp] theorem finish_pll (c : Code) : (finish c s).pll = s.pll := rfl
@[simp] theorem finish_pool (c : Code) : (finish c s).pool = s.pool := rfl
@[simp] theorem finish_bus (c : Code) : (finish c s).bus = s.bus := rfl
@[simp] theorem finish_worker (c : Code) : (finish c s).worker = s.worker := rfl
@[simp] theorem finish_sub (c : Code) : (finish c s).sub = s.sub := rfl
@[simp] theorem finish_events (c : Code) : (finish c s).events = s.events := rfl
@[simp] theorem finish_env (c : Code) : (finish c s).env = s.env := rfl

/-! ### `emit` -/

@[simp] theorem emit_regs (e : Event) : (emit e s).regs = s.regs := rfl
@[simp] theorem emit_status (e : Event) : (emit e s).status = s.status := rfl
@[simp] theorem emit_latch (e : Event) : (emit e s).latch = s.latch := rfl
@[simp] theorem emit_hph (e : Event) : (emit e s).hph = s.hph := rfl
@[simp] theorem emit_stream (e : Event) : (emit e s).stream = s.stream := rfl
@[simp] theorem emit_pll (e : Event) : (emit e s).pll = s.pll := rfl
@[simp] theorem emit_pool (e : Event) : (emit e s).pool = s.pool := rfl
@[simp] theorem emit_bus (e : Event) : (emit e s).bus = s.bus := rfl
@[simp] theorem emit_worker (e : Event) : (emit e s).worker = s.worker := rfl
@[simp] theorem emit_sub (e : Event) : (emit e s).sub = s.sub := rfl
@[simp] theorem emit_events (e : Event) : (emit e s).events = s.events ++ [e] := rfl
@[simp] theorem emit_env (e : Event) : (emit e s).env = s.env := rfl

/-! ### `fatal` -/

@[simp] theorem fatal_regs : (fatal s).regs = s.regs := rfl
@[simp] theorem fatal_status : (fatal s).status = { s.status with streamFault := true } := rfl
@[simp] theorem fatal_latch : (fatal s).latch = s.latch := rfl
@[simp] theorem fatal_hph : (fatal s).hph = s.hph := rfl
@[simp] theorem fatal_pll : (fatal s).pll = s.pll := rfl
@[simp] theorem fatal_pool : (fatal s).pool = s.pool := rfl
@[simp] theorem fatal_bus : (fatal s).bus = s.bus := rfl
@[simp] theorem fatal_worker : (fatal s).worker = s.worker := rfl
@[simp] theorem fatal_sub : (fatal s).sub = s.sub := rfl
@[simp] theorem fatal_events : (fatal s).events = s.events ++ [.fault] := rfl
@[simp] theorem fatal_env : (fatal s).env = s.env := rfl

/-! ### `setRes` -/

@[simp] theorem setRes_status (i : Fin 8) (v : Word) : (setRes i v s).status = s.status := rfl
@[simp] theorem setRes_latch (i : Fin 8) (v : Word) : (setRes i v s).latch = s.latch := rfl
@[simp] theorem setRes_hph (i : Fin 8) (v : Word) : (setRes i v s).hph = s.hph := rfl
@[simp] theorem setRes_stream (i : Fin 8) (v : Word) : (setRes i v s).stream = s.stream := rfl
@[simp] theorem setRes_pll (i : Fin 8) (v : Word) : (setRes i v s).pll = s.pll := rfl
@[simp] theorem setRes_pool (i : Fin 8) (v : Word) : (setRes i v s).pool = s.pool := rfl
@[simp] theorem setRes_bus (i : Fin 8) (v : Word) : (setRes i v s).bus = s.bus := rfl
@[simp] theorem setRes_worker (i : Fin 8) (v : Word) : (setRes i v s).worker = s.worker := rfl
@[simp] theorem setRes_sub (i : Fin 8) (v : Word) : (setRes i v s).sub = s.sub := rfl
@[simp] theorem setRes_events (i : Fin 8) (v : Word) : (setRes i v s).events = s.events := rfl
@[simp] theorem setRes_env (i : Fin 8) (v : Word) : (setRes i v s).env = s.env := rfl

/-! ### `bufWrite` -/

@[simp] theorem bufWrite_regs (h : Handle) (ws : List (Nat × Byte)) : (bufWrite h ws s).regs = s.regs := rfl
@[simp] theorem bufWrite_status (h : Handle) (ws : List (Nat × Byte)) : (bufWrite h ws s).status = s.status := rfl
@[simp] theorem bufWrite_latch (h : Handle) (ws : List (Nat × Byte)) : (bufWrite h ws s).latch = s.latch := rfl
@[simp] theorem bufWrite_hph (h : Handle) (ws : List (Nat × Byte)) : (bufWrite h ws s).hph = s.hph := rfl
@[simp] theorem bufWrite_stream (h : Handle) (ws : List (Nat × Byte)) : (bufWrite h ws s).stream = s.stream := rfl
@[simp] theorem bufWrite_pll (h : Handle) (ws : List (Nat × Byte)) : (bufWrite h ws s).pll = s.pll := rfl
@[simp] theorem bufWrite_pool (h : Handle) (ws : List (Nat × Byte)) : (bufWrite h ws s).pool = s.pool.setBuf h { s.pool.buf h with data := Memory.setAll (s.pool.buf h).data ws } := rfl
@[simp] theorem bufWrite_bus (h : Handle) (ws : List (Nat × Byte)) : (bufWrite h ws s).bus = s.bus := rfl
@[simp] theorem bufWrite_worker (h : Handle) (ws : List (Nat × Byte)) : (bufWrite h ws s).worker = s.worker := rfl
@[simp] theorem bufWrite_sub (h : Handle) (ws : List (Nat × Byte)) : (bufWrite h ws s).sub = s.sub := rfl
@[simp] theorem bufWrite_events (h : Handle) (ws : List (Nat × Byte)) : (bufWrite h ws s).events = s.events ++ ws.map fun w => .bufWrite h w.1 w.2 := rfl
@[simp] theorem bufWrite_env (h : Handle) (ws : List (Nat × Byte)) : (bufWrite h ws s).env = s.env := rfl

/-! ### `hostStore` -/

@[simp] theorem hostStore_regs (a : Nat) (b : Byte) : (hostStore a b s).regs = s.regs := rfl
@[simp] theorem hostStore_status (a : Nat) (b : Byte) : (hostStore a b s).status = s.status := rfl
@[simp] theorem hostStore_latch (a : Nat) (b : Byte) : (hostStore a b s).latch = s.latch := rfl
@[simp] theorem hostStore_hph (a : Nat) (b : Byte) : (hostStore a b s).hph = s.hph := rfl
@[simp] theorem hostStore_stream (a : Nat) (b : Byte) : (hostStore a b s).stream = s.stream := rfl
@[simp] theorem hostStore_pll (a : Nat) (b : Byte) : (hostStore a b s).pll = s.pll := rfl
@[simp] theorem hostStore_pool (a : Nat) (b : Byte) : (hostStore a b s).pool = s.pool := rfl
@[simp] theorem hostStore_bus (a : Nat) (b : Byte) : (hostStore a b s).bus = s.bus := rfl
@[simp] theorem hostStore_worker (a : Nat) (b : Byte) : (hostStore a b s).worker = s.worker := rfl
@[simp] theorem hostStore_sub (a : Nat) (b : Byte) : (hostStore a b s).sub = s.sub := rfl
@[simp] theorem hostStore_events (a : Nat) (b : Byte) : (hostStore a b s).events = s.events := rfl

/-! ### `clearSticky` -/

@[simp] theorem clearSticky_regs : (clearSticky s).regs = s.regs := rfl
@[simp] theorem clearSticky_status : (clearSticky s).status = { s.status with streamFault := false, xferErr := false, cmdOverrun := false } := rfl
@[simp] theorem clearSticky_latch : (clearSticky s).latch = s.latch := rfl
@[simp] theorem clearSticky_hph : (clearSticky s).hph = s.hph := rfl
@[simp] theorem clearSticky_stream : (clearSticky s).stream = s.stream := rfl
@[simp] theorem clearSticky_pll : (clearSticky s).pll = s.pll := rfl
@[simp] theorem clearSticky_pool : (clearSticky s).pool = s.pool := rfl
@[simp] theorem clearSticky_bus : (clearSticky s).bus = s.bus := rfl
@[simp] theorem clearSticky_worker : (clearSticky s).worker = s.worker := rfl
@[simp] theorem clearSticky_sub : (clearSticky s).sub = s.sub := rfl
@[simp] theorem clearSticky_events : (clearSticky s).events = s.events := rfl
@[simp] theorem clearSticky_env : (clearSticky s).env = s.env := rfl

/-! ### `setXferErr` -/

@[simp] theorem setXferErr_regs : (setXferErr s).regs = s.regs := rfl
@[simp] theorem setXferErr_status : (setXferErr s).status = { s.status with xferErr := true } := rfl
@[simp] theorem setXferErr_latch : (setXferErr s).latch = s.latch := rfl
@[simp] theorem setXferErr_hph : (setXferErr s).hph = s.hph := rfl
@[simp] theorem setXferErr_stream : (setXferErr s).stream = s.stream := rfl
@[simp] theorem setXferErr_pll : (setXferErr s).pll = s.pll := rfl
@[simp] theorem setXferErr_pool : (setXferErr s).pool = s.pool := rfl
@[simp] theorem setXferErr_bus : (setXferErr s).bus = s.bus := rfl
@[simp] theorem setXferErr_worker : (setXferErr s).worker = s.worker := rfl
@[simp] theorem setXferErr_sub : (setXferErr s).sub = s.sub := rfl
@[simp] theorem setXferErr_events : (setXferErr s).events = s.events := rfl
@[simp] theorem setXferErr_env : (setXferErr s).env = s.env := rfl

/-! ### `setPllRes` -/

@[simp] theorem setPllRes_status (best : Best) : (setPllRes best s).status = s.status := rfl
@[simp] theorem setPllRes_latch (best : Best) : (setPllRes best s).latch = s.latch := rfl
@[simp] theorem setPllRes_hph (best : Best) : (setPllRes best s).hph = s.hph := rfl
@[simp] theorem setPllRes_stream (best : Best) : (setPllRes best s).stream = s.stream := rfl
@[simp] theorem setPllRes_pll (best : Best) : (setPllRes best s).pll = s.pll := rfl
@[simp] theorem setPllRes_pool (best : Best) : (setPllRes best s).pool = s.pool := rfl
@[simp] theorem setPllRes_bus (best : Best) : (setPllRes best s).bus = s.bus := rfl
@[simp] theorem setPllRes_worker (best : Best) : (setPllRes best s).worker = s.worker := rfl
@[simp] theorem setPllRes_sub (best : Best) : (setPllRes best s).sub = s.sub := rfl
@[simp] theorem setPllRes_events (best : Best) : (setPllRes best s).events = s.events := rfl
@[simp] theorem setPllRes_env (best : Best) : (setPllRes best s).env = s.env := rfl

/-! ### `setSentinelRes` -/

@[simp] theorem setSentinelRes_status : (setSentinelRes s).status = s.status := rfl
@[simp] theorem setSentinelRes_latch : (setSentinelRes s).latch = s.latch := rfl
@[simp] theorem setSentinelRes_hph : (setSentinelRes s).hph = s.hph := rfl
@[simp] theorem setSentinelRes_stream : (setSentinelRes s).stream = s.stream := rfl
@[simp] theorem setSentinelRes_pll : (setSentinelRes s).pll = s.pll := rfl
@[simp] theorem setSentinelRes_pool : (setSentinelRes s).pool = s.pool := rfl
@[simp] theorem setSentinelRes_bus : (setSentinelRes s).bus = s.bus := rfl
@[simp] theorem setSentinelRes_worker : (setSentinelRes s).worker = s.worker := rfl
@[simp] theorem setSentinelRes_sub : (setSentinelRes s).sub = s.sub := rfl
@[simp] theorem setSentinelRes_events : (setSentinelRes s).events = s.events := rfl
@[simp] theorem setSentinelRes_env : (setSentinelRes s).env = s.env := rfl

/-! ### `acceptMode` -/

@[simp] theorem acceptMode_status (ht : Nat) (d : Int) (best : Best) (bpp : Nat) : (acceptMode ht d best bpp s).status = s.status := rfl
@[simp] theorem acceptMode_latch (ht : Nat) (d : Int) (best : Best) (bpp : Nat) : (acceptMode ht d best bpp s).latch = s.latch := rfl
@[simp] theorem acceptMode_hph (ht : Nat) (d : Int) (best : Best) (bpp : Nat) : (acceptMode ht d best bpp s).hph = s.hph := rfl
@[simp] theorem acceptMode_stream (ht : Nat) (d : Int) (best : Best) (bpp : Nat) : (acceptMode ht d best bpp s).stream = s.stream := rfl
@[simp] theorem acceptMode_pll (ht : Nat) (d : Int) (best : Best) (bpp : Nat) : (acceptMode ht d best bpp s).pll = { valid := true, cfg := best.cfg } := rfl
@[simp] theorem acceptMode_pool (ht : Nat) (d : Int) (best : Best) (bpp : Nat) : (acceptMode ht d best bpp s).pool = s.pool := rfl
@[simp] theorem acceptMode_bus (ht : Nat) (d : Int) (best : Best) (bpp : Nat) : (acceptMode ht d best bpp s).bus = s.bus := rfl
@[simp] theorem acceptMode_worker (ht : Nat) (d : Int) (best : Best) (bpp : Nat) : (acceptMode ht d best bpp s).worker = s.worker := rfl
@[simp] theorem acceptMode_sub (ht : Nat) (d : Int) (best : Best) (bpp : Nat) : (acceptMode ht d best bpp s).sub = s.sub := rfl
@[simp] theorem acceptMode_events (ht : Nat) (d : Int) (best : Best) (bpp : Nat) : (acceptMode ht d best bpp s).events = s.events ++ [.pll best.cfg] := rfl
@[simp] theorem acceptMode_env (ht : Nat) (d : Int) (best : Best) (bpp : Nat) : (acceptMode ht d best bpp s).env = s.env := rfl

/-! ### `startStream` -/

@[simp] theorem startStream_regs (born : Nat) : (startStream born s).regs = s.regs := rfl
@[simp] theorem startStream_status (born : Nat) : (startStream born s).status = s.status := rfl
@[simp] theorem startStream_latch (born : Nat) : (startStream born s).latch = s.latch := rfl
@[simp] theorem startStream_hph (born : Nat) : (startStream born s).hph = s.hph := rfl
@[simp] theorem startStream_pll (born : Nat) : (startStream born s).pll = s.pll := rfl
@[simp] theorem startStream_pool (born : Nat) : (startStream born s).pool = Pool.allocated s.stream.bufSize born := rfl
@[simp] theorem startStream_bus (born : Nat) : (startStream born s).bus = { s.bus with outs := [] } := rfl
@[simp] theorem startStream_worker (born : Nat) : (startStream born s).worker = { s.worker with wph := .wait, retries := 0 } := rfl
@[simp] theorem startStream_sub (born : Nat) : (startStream born s).sub = s.sub := rfl
@[simp] theorem startStream_events (born : Nat) : (startStream born s).events = s.events := rfl
@[simp] theorem startStream_env (born : Nat) : (startStream born s).env = s.env := rfl

/-! ### `beginSubmit` -/

@[simp] theorem beginSubmit_regs (b : Handle) (bpp : Bpp) : (beginSubmit b bpp s).regs = s.regs := rfl
@[simp] theorem beginSubmit_status (b : Handle) (bpp : Bpp) : (beginSubmit b bpp s).status = s.status := rfl
@[simp] theorem beginSubmit_latch (b : Handle) (bpp : Bpp) : (beginSubmit b bpp s).latch = s.latch := rfl
@[simp] theorem beginSubmit_stream (b : Handle) (bpp : Bpp) : (beginSubmit b bpp s).stream = s.stream := rfl
@[simp] theorem beginSubmit_pll (b : Handle) (bpp : Bpp) : (beginSubmit b bpp s).pll = s.pll := rfl
@[simp] theorem beginSubmit_pool (b : Handle) (bpp : Bpp) : (beginSubmit b bpp s).pool = s.pool := rfl
@[simp] theorem beginSubmit_bus (b : Handle) (bpp : Bpp) : (beginSubmit b bpp s).bus = s.bus := rfl
@[simp] theorem beginSubmit_worker (b : Handle) (bpp : Bpp) : (beginSubmit b bpp s).worker = s.worker := rfl
@[simp] theorem beginSubmit_events (b : Handle) (bpp : Bpp) : (beginSubmit b bpp s).events = s.events := rfl
@[simp] theorem beginSubmit_env (b : Handle) (bpp : Bpp) : (beginSubmit b bpp s).env = s.env := rfl

/-! ### `resized` -/

@[simp] theorem resized_regs (b : Handle) : (resized b s).regs = s.regs := rfl
@[simp] theorem resized_status (b : Handle) : (resized b s).status = s.status := rfl
@[simp] theorem resized_latch (b : Handle) : (resized b s).latch = s.latch := rfl
@[simp] theorem resized_hph (b : Handle) : (resized b s).hph = s.hph := rfl
@[simp] theorem resized_stream (b : Handle) : (resized b s).stream = s.stream := rfl
@[simp] theorem resized_pll (b : Handle) : (resized b s).pll = s.pll := rfl
@[simp] theorem resized_pool (b : Handle) : (resized b s).pool = s.pool.setBuf b (Buffer.fresh s.stream.bufSize s.events.length) := rfl
@[simp] theorem resized_bus (b : Handle) : (resized b s).bus = s.bus := rfl
@[simp] theorem resized_worker (b : Handle) : (resized b s).worker = s.worker := rfl
@[simp] theorem resized_sub (b : Handle) : (resized b s).sub = s.sub := rfl
@[simp] theorem resized_events (b : Handle) : (resized b s).events = s.events ++ [.realloc b s.stream.bufSize .ok] := rfl
@[simp] theorem resized_env (b : Handle) : (resized b s).env = s.env := rfl

/-! ### `selectBuffer` -/

@[simp] theorem selectBuffer_regs (b : Handle) : (selectBuffer b s).regs = s.regs := rfl
@[simp] theorem selectBuffer_status (b : Handle) : (selectBuffer b s).status = s.status := rfl
@[simp] theorem selectBuffer_latch (b : Handle) : (selectBuffer b s).latch = s.latch := rfl
@[simp] theorem selectBuffer_hph (b : Handle) : (selectBuffer b s).hph = s.hph := rfl
@[simp] theorem selectBuffer_stream (b : Handle) : (selectBuffer b s).stream = s.stream := rfl
@[simp] theorem selectBuffer_pll (b : Handle) : (selectBuffer b s).pll = s.pll := rfl
@[simp] theorem selectBuffer_bus (b : Handle) : (selectBuffer b s).bus = s.bus := rfl
@[simp] theorem selectBuffer_sub (b : Handle) : (selectBuffer b s).sub = s.sub := rfl
@[simp] theorem selectBuffer_events (b : Handle) : (selectBuffer b s).events = s.events := rfl
@[simp] theorem selectBuffer_env (b : Handle) : (selectBuffer b s).env = s.env := rfl

/-! ### `accepted` -/

@[simp] theorem accepted_regs (k : XferKind) (n : Nat) (p : WorkerPhase) : (accepted k n p s).regs = s.regs := rfl
@[simp] theorem accepted_status (k : XferKind) (n : Nat) (p : WorkerPhase) : (accepted k n p s).status = s.status := rfl
@[simp] theorem accepted_latch (k : XferKind) (n : Nat) (p : WorkerPhase) : (accepted k n p s).latch = s.latch := rfl
@[simp] theorem accepted_hph (k : XferKind) (n : Nat) (p : WorkerPhase) : (accepted k n p s).hph = s.hph := rfl
@[simp] theorem accepted_stream (k : XferKind) (n : Nat) (p : WorkerPhase) : (accepted k n p s).stream = s.stream := rfl
@[simp] theorem accepted_pll (k : XferKind) (n : Nat) (p : WorkerPhase) : (accepted k n p s).pll = s.pll := rfl
@[simp] theorem accepted_pool (k : XferKind) (n : Nat) (p : WorkerPhase) : (accepted k n p s).pool = s.pool := rfl
@[simp] theorem accepted_worker (k : XferKind) (n : Nat) (p : WorkerPhase) : (accepted k n p s).worker = { s.worker with wph := p, retries := 0 } := rfl
@[simp] theorem accepted_sub (k : XferKind) (n : Nat) (p : WorkerPhase) : (accepted k n p s).sub = s.sub := rfl
@[simp] theorem accepted_events (k : XferKind) (n : Nat) (p : WorkerPhase) : (accepted k n p s).events = s.events ++ [.submitXfer s.bus.nextId s.worker.cur k n] := rfl
@[simp] theorem accepted_env (k : XferKind) (n : Nat) (p : WorkerPhase) : (accepted k n p s).env = s.env := rfl

/-! ### `markResubmitted` -/

@[simp] theorem markResubmitted_regs (t : Transfer) : (markResubmitted t s).regs = s.regs := rfl
@[simp] theorem markResubmitted_status (t : Transfer) : (markResubmitted t s).status = s.status := rfl
@[simp] theorem markResubmitted_latch (t : Transfer) : (markResubmitted t s).latch = s.latch := rfl
@[simp] theorem markResubmitted_hph (t : Transfer) : (markResubmitted t s).hph = s.hph := rfl
@[simp] theorem markResubmitted_stream (t : Transfer) : (markResubmitted t s).stream = s.stream := rfl
@[simp] theorem markResubmitted_pll (t : Transfer) : (markResubmitted t s).pll = s.pll := rfl
@[simp] theorem markResubmitted_pool (t : Transfer) : (markResubmitted t s).pool = s.pool := rfl
@[simp] theorem markResubmitted_worker (t : Transfer) : (markResubmitted t s).worker = s.worker := rfl
@[simp] theorem markResubmitted_sub (t : Transfer) : (markResubmitted t s).sub = s.sub := rfl
@[simp] theorem markResubmitted_events (t : Transfer) : (markResubmitted t s).events = s.events := rfl
@[simp] theorem markResubmitted_env (t : Transfer) : (markResubmitted t s).env = s.env := rfl

/-! ### `drainJoin` -/

@[simp] theorem drainJoin_regs : (drainJoin s).regs = s.regs := rfl
@[simp] theorem drainJoin_status : (drainJoin s).status = s.status := rfl
@[simp] theorem drainJoin_latch : (drainJoin s).latch = s.latch := rfl
@[simp] theorem drainJoin_hph : (drainJoin s).hph = s.hph := rfl
@[simp] theorem drainJoin_stream : (drainJoin s).stream = { s.stream with dph := .waitXfers } := rfl
@[simp] theorem drainJoin_pll : (drainJoin s).pll = s.pll := rfl
@[simp] theorem drainJoin_pool : (drainJoin s).pool = s.pool := rfl
@[simp] theorem drainJoin_bus : (drainJoin s).bus = s.bus := rfl
@[simp] theorem drainJoin_worker : (drainJoin s).worker = s.worker := rfl
@[simp] theorem drainJoin_sub : (drainJoin s).sub = s.sub := rfl
@[simp] theorem drainJoin_events : (drainJoin s).events = s.events := rfl
@[simp] theorem drainJoin_env : (drainJoin s).env = s.env := rfl

/-! ### `drainCancel` -/

@[simp] theorem drainCancel_regs : (drainCancel s).regs = s.regs := rfl
@[simp] theorem drainCancel_status : (drainCancel s).status = s.status := rfl
@[simp] theorem drainCancel_latch : (drainCancel s).latch = s.latch := rfl
@[simp] theorem drainCancel_hph : (drainCancel s).hph = s.hph := rfl
@[simp] theorem drainCancel_stream : (drainCancel s).stream = { s.stream with cancelReq := true, dph := .cancelling } := rfl
@[simp] theorem drainCancel_pll : (drainCancel s).pll = s.pll := rfl
@[simp] theorem drainCancel_pool : (drainCancel s).pool = s.pool := rfl
@[simp] theorem drainCancel_bus : (drainCancel s).bus = s.bus := rfl
@[simp] theorem drainCancel_worker : (drainCancel s).worker = s.worker := rfl
@[simp] theorem drainCancel_sub : (drainCancel s).sub = s.sub := rfl
@[simp] theorem drainCancel_events : (drainCancel s).events = s.events ++ [.cancelAll] := rfl
@[simp] theorem drainCancel_env : (drainCancel s).env = s.env := rfl

/-! ### `drainFree` -/

@[simp] theorem drainFree_regs : (drainFree s).regs = s.regs := rfl
@[simp] theorem drainFree_status : (drainFree s).status = s.status := rfl
@[simp] theorem drainFree_latch : (drainFree s).latch = s.latch := rfl
@[simp] theorem drainFree_hph : (drainFree s).hph = s.hph := rfl
@[simp] theorem drainFree_pll : (drainFree s).pll = s.pll := rfl
@[simp] theorem drainFree_pool : (drainFree s).pool = Pool.reset := rfl
@[simp] theorem drainFree_bus : (drainFree s).bus = s.bus := rfl
@[simp] theorem drainFree_worker : (drainFree s).worker = Worker.reset := rfl
@[simp] theorem drainFree_sub : (drainFree s).sub = s.sub := rfl
@[simp] theorem drainFree_events : (drainFree s).events = s.events ++ [.free] := rfl
@[simp] theorem drainFree_env : (drainFree s).env = s.env := rfl

/-! ### `startCommand` -/

@[simp] theorem startCommand_regs (w : Word) : (startCommand w s).regs = s.regs := rfl
@[simp] theorem startCommand_status (w : Word) : (startCommand w s).status = { s.status with busy := true } := rfl
@[simp] theorem startCommand_latch (w : Word) : (startCommand w s).latch = { cmd := w, arg := s.regs.arg } := rfl
@[simp] theorem startCommand_hph (w : Word) : (startCommand w s).hph = .run := rfl
@[simp] theorem startCommand_stream (w : Word) : (startCommand w s).stream = s.stream := rfl
@[simp] theorem startCommand_pll (w : Word) : (startCommand w s).pll = s.pll := rfl
@[simp] theorem startCommand_pool (w : Word) : (startCommand w s).pool = s.pool := rfl
@[simp] theorem startCommand_bus (w : Word) : (startCommand w s).bus = s.bus := rfl
@[simp] theorem startCommand_worker (w : Word) : (startCommand w s).worker = s.worker := rfl
@[simp] theorem startCommand_sub (w : Word) : (startCommand w s).sub = s.sub := rfl
@[simp] theorem startCommand_events (w : Word) : (startCommand w s).events = s.events := rfl
@[simp] theorem startCommand_env (w : Word) : (startCommand w s).env = { s.env with hmOld := [] } := rfl

/-! ### `dropCommand` -/

@[simp] theorem dropCommand_regs : (dropCommand s).regs = s.regs := rfl
@[simp] theorem dropCommand_status : (dropCommand s).status = { s.status with cmdOverrun := true } := rfl
@[simp] theorem dropCommand_latch : (dropCommand s).latch = s.latch := rfl
@[simp] theorem dropCommand_hph : (dropCommand s).hph = s.hph := rfl
@[simp] theorem dropCommand_stream : (dropCommand s).stream = s.stream := rfl
@[simp] theorem dropCommand_pll : (dropCommand s).pll = s.pll := rfl
@[simp] theorem dropCommand_pool : (dropCommand s).pool = s.pool := rfl
@[simp] theorem dropCommand_bus : (dropCommand s).bus = s.bus := rfl
@[simp] theorem dropCommand_worker : (dropCommand s).worker = s.worker := rfl
@[simp] theorem dropCommand_sub : (dropCommand s).sub = s.sub := rfl
@[simp] theorem dropCommand_events : (dropCommand s).events = s.events := rfl
@[simp] theorem dropCommand_env : (dropCommand s).env = s.env := rfl

/-! ### `writeArg` -/

@[simp] theorem writeArg_status (i : Fin 4) (v : Word) : (writeArg i v s).status = s.status := rfl
@[simp] theorem writeArg_latch (i : Fin 4) (v : Word) : (writeArg i v s).latch = s.latch := rfl
@[simp] theorem writeArg_hph (i : Fin 4) (v : Word) : (writeArg i v s).hph = s.hph := rfl
@[simp] theorem writeArg_stream (i : Fin 4) (v : Word) : (writeArg i v s).stream = s.stream := rfl
@[simp] theorem writeArg_pll (i : Fin 4) (v : Word) : (writeArg i v s).pll = s.pll := rfl
@[simp] theorem writeArg_pool (i : Fin 4) (v : Word) : (writeArg i v s).pool = s.pool := rfl
@[simp] theorem writeArg_bus (i : Fin 4) (v : Word) : (writeArg i v s).bus = s.bus := rfl
@[simp] theorem writeArg_worker (i : Fin 4) (v : Word) : (writeArg i v s).worker = s.worker := rfl
@[simp] theorem writeArg_sub (i : Fin 4) (v : Word) : (writeArg i v s).sub = s.sub := rfl
@[simp] theorem writeArg_events (i : Fin 4) (v : Word) : (writeArg i v s).events = s.events := rfl
@[simp] theorem writeArg_env (i : Fin 4) (v : Word) : (writeArg i v s).env = s.env := rfl

/-! ### `beginTurn` -/

@[simp] theorem beginTurn_regs : (beginTurn s).regs = s.regs := rfl
@[simp] theorem beginTurn_status : (beginTurn s).status = s.status := rfl
@[simp] theorem beginTurn_latch : (beginTurn s).latch = s.latch := rfl
@[simp] theorem beginTurn_hph : (beginTurn s).hph = s.hph := rfl
@[simp] theorem beginTurn_stream : (beginTurn s).stream = s.stream := rfl
@[simp] theorem beginTurn_pll : (beginTurn s).pll = s.pll := rfl
@[simp] theorem beginTurn_pool : (beginTurn s).pool = s.pool := rfl
@[simp] theorem beginTurn_bus : (beginTurn s).bus = s.bus := rfl
@[simp] theorem beginTurn_worker : (beginTurn s).worker = s.worker := rfl
@[simp] theorem beginTurn_sub : (beginTurn s).sub = s.sub := rfl
@[simp] theorem beginTurn_events : (beginTurn s).events = s.events := rfl

/-! ### Buffers -/

@[simp] theorem setBuf_nb (h : Handle) (b : Buffer) (p : Pool) : (p.setBuf h b).nb = p.nb := rfl
@[simp] theorem setBuf_zlpCtx (h : Handle) (b : Buffer) (p : Pool) : (p.setBuf h b).zlpCtx = p.zlpCtx := rfl
@[simp] theorem setBuf_r (h : Handle) (b : Buffer) (p : Pool) : (p.setBuf h b).r = p.r := rfl
@[simp] theorem setBuf_t (h : Handle) (b : Buffer) (p : Pool) : (p.setBuf h b).t = p.t := rfl
@[simp] theorem setBuf_w (h : Handle) (b : Buffer) (p : Pool) : (p.setBuf h b).w = p.w := rfl

/-- Reading the buffer just replaced. -/
@[simp] theorem buf_setBuf_self (h : Handle) (b : Buffer) (p : Pool) : (p.setBuf h b).buf h = b := by
  simp [Pool.buf, Pool.setBuf]

/-- Reading another buffer. -/
theorem buf_setBuf_of_ne {h k : Handle} (hk : k ≠ h) (b : Buffer) (p : Pool) : (p.setBuf h b).buf k = p.buf k := by
  have : (h : Nat) ≠ k := fun e => hk (Fin.ext e.symm)
  simp [Pool.buf, Pool.setBuf, this]

/-- Reading any buffer after a replacement. -/
theorem buf_setBuf (h k : Handle) (b : Buffer) (p : Pool) :
    (p.setBuf h b).buf k = if k = h then b else p.buf k := by
  by_cases hk : k = h
  · subst hk; simp
  · simp [hk, buf_setBuf_of_ne hk]

@[simp] theorem moveTail_nb (h : Handle) (q : Queue) (p : Pool) : (p.moveTail h q).nb = p.nb := by
  cases q <;> rfl
@[simp] theorem moveTail_zlpCtx (h : Handle) (q : Queue) (p : Pool) : (p.moveTail h q).zlpCtx = p.zlpCtx := by
  cases q <;> rfl
@[simp] theorem moveTail_bufs (h : Handle) (q : Queue) (p : Pool) : (p.moveTail h q).bufs = p.bufs := by
  cases q <;> rfl
@[simp] theorem moveTail_buf (h k : Handle) (q : Queue) (p : Pool) : (p.moveTail h q).buf k = p.buf k := by
  cases q <;> rfl

/-! ### Result registers -/

@[simp] theorem setRes_arg (i : Fin 8) (v : Word) : (setRes i v s).regs.arg = s.regs.arg := rfl
@[simp] theorem setRes_argWritten (i : Fin 8) (v : Word) :
    (setRes i v s).regs.argWritten = s.regs.argWritten := rfl

/-- Reading any result register after a write of one. -/
theorem setRes_res (i k : Fin 8) (v : Word) :
    (setRes i v s).regs.res[k] = if k = i then v else s.regs.res[k] := by
  by_cases hk : k = i
  · subst hk; simp [setRes]
  · have : (i : Nat) ≠ k := fun e => hk (Fin.ext e.symm)
    simp [setRes, hk, this]

/-! ### `fatal` on the stream -/

/-- A running stream is sent to Draining (R262). -/
theorem fatal_stream_running (h : s.stream.eng = .running) :
    (fatal s).stream = { s.stream with
      enabled := false, eng := .draining, dph := if s.stream.dph = .none then .join else s.stream.dph } := by
  simp [fatal, h]

/-- Any other stream is left as it is (R262). -/
theorem fatal_stream_not_running (h : s.stream.eng ≠ .running) : (fatal s).stream = s.stream := by
  simp [fatal, h]

end Sys2Proof.Machine
end

