-- ==== Sys2Proof/Laws/Pool.lean ====
section
/-!
SUPPORT. What the operations over queues and buffers do (R16, R50-R52, R220, R221, R250, R265), said once
each.
-/

namespace Sys2Proof.Machine

/-! ### Queues as one list -/

/-- The three queues, one after another (R50). -/
abbrev Pool.handles (p : Pool) : List Handle := p.r ++ p.t ++ p.w

theorem remove_append (a b : List Handle) (h : Handle) : remove (a ++ b) h = remove a h ++ remove b h :=
  List.filter_append ..

theorem mem_remove {q : List Handle} {h k : Handle} : k ∈ remove q h ↔ k ∈ q ∧ k ≠ h := by
  simp [remove]

/-- A move takes the handle out of wherever it is and appends it to one queue. -/
theorem moveTail_handles (h : Handle) (q : Queue) (p : Pool) :
    (p.moveTail h q).handles.Perm (h :: remove p.handles h) := by
  cases q with
  | wait =>
    simp only [Pool.handles, Pool.moveTail, remove_append, ← List.append_assoc]
    exact List.perm_append_singleton ..
  | render =>
    simp only [Pool.handles, Pool.moveTail, remove_append, List.append_assoc, List.singleton_append]
    exact List.perm_middle
  | transmit =>
    simp only [Pool.handles, Pool.moveTail, remove_append, List.append_assoc, List.singleton_append]
    rw [← List.append_assoc, ← List.append_assoc]
    exact List.perm_middle

/-- The condition of R50 is kept by a move. -/
theorem moveTail_perm {p : Pool} (hp : p.handles.Perm [0, 1, 2, 3]) (h : Handle) (q : Queue) :
    (p.moveTail h q).handles.Perm [0, 1, 2, 3] := by
  refine (moveTail_handles h q p).trans ((List.Perm.cons h (hp.filter (· != h))).trans ?_)
  fin_cases h <;> decide

theorem mem_moveTail_r {p : Pool} {h k : Handle} {q : Queue} :
    k ∈ (p.moveTail h q).r ↔ (k ∈ p.r ∧ k ≠ h) ∨ (k = h ∧ q = .render) := by
  cases q <;> simp [Pool.moveTail, mem_remove]

theorem mem_moveTail_w {p : Pool} {h k : Handle} {q : Queue} :
    k ∈ (p.moveTail h q).w ↔ (k ∈ p.w ∧ k ≠ h) ∨ (k = h ∧ q = .wait) := by
  cases q <;> simp [Pool.moveTail, mem_remove]

theorem setBuf_handles (h : Handle) (b : Buffer) (p : Pool) : (p.setBuf h b).handles = p.handles := rfl

/-! ### in_flight -/

/-- in_flight after it was replaced. -/
theorem setInFlight_inFlight (h k : Handle) (n : Nat) (p : Pool) :
    ((p.setInFlight h n).buf k).inFlight = if k = h then n else (p.buf k).inFlight := by
  by_cases hk : k = h <;> simp [Pool.setInFlight, buf_setBuf, hk]

@[simp] theorem setInFlight_size (h k : Handle) (n : Nat) (p : Pool) :
    ((p.setInFlight h n).buf k).size = (p.buf k).size := by
  by_cases hk : k = h <;> simp [Pool.setInFlight, buf_setBuf, hk]

@[simp] theorem setInFlight_data (h k : Handle) (n : Nat) (p : Pool) :
    ((p.setInFlight h n).buf k).data = (p.buf k).data := by
  by_cases hk : k = h <;> simp [Pool.setInFlight, buf_setBuf, hk]

@[simp] theorem setInFlight_born (h k : Handle) (n : Nat) (p : Pool) :
    ((p.setInFlight h n).buf k).born = (p.buf k).born := by
  by_cases hk : k = h <;> simp [Pool.setInFlight, buf_setBuf, hk]

@[simp] theorem setInFlight_nb (h : Handle) (n : Nat) (p : Pool) : (p.setInFlight h n).nb = p.nb := rfl
@[simp] theorem setInFlight_zlpCtx (h : Handle) (n : Nat) (p : Pool) : (p.setInFlight h n).zlpCtx = p.zlpCtx := rfl
@[simp] theorem setInFlight_r (h : Handle) (n : Nat) (p : Pool) : (p.setInFlight h n).r = p.r := rfl
@[simp] theorem setInFlight_t (h : Handle) (n : Nat) (p : Pool) : (p.setInFlight h n).t = p.t := rfl
@[simp] theorem setInFlight_w (h : Handle) (n : Nat) (p : Pool) : (p.setInFlight h n).w = p.w := rfl

/-! ### `release` -/

/-- Everything a release can do: in_flight falls, and at 0 the buffer moves to the tail of R (R250, R265). -/
theorem release_cases (h : Handle) (n : Nat) (p : Pool) :
    ((p.buf h).inFlight - n = 0 ∧ p.release h n = (p.setInFlight h 0).moveTail h .render) ∨
    ((p.buf h).inFlight - n ≠ 0 ∧ p.release h n = p.setInFlight h ((p.buf h).inFlight - n)) := by
  by_cases hk : (p.buf h).inFlight - n = 0
  · exact .inl ⟨hk, by simp [Pool.release, hk]⟩
  · exact .inr ⟨hk, by simp [Pool.release, hk]⟩

@[simp] theorem release_nb (h : Handle) (n : Nat) (p : Pool) : (p.release h n).nb = p.nb := by
  rcases release_cases h n p with ⟨-, e⟩ | ⟨-, e⟩ <;> simp [e]

@[simp] theorem release_zlpCtx (h : Handle) (n : Nat) (p : Pool) : (p.release h n).zlpCtx = p.zlpCtx := by
  rcases release_cases h n p with ⟨-, e⟩ | ⟨-, e⟩ <;> simp [e]

@[simp] theorem release_size (h k : Handle) (n : Nat) (p : Pool) :
    ((p.release h n).buf k).size = (p.buf k).size := by
  rcases release_cases h n p with ⟨-, e⟩ | ⟨-, e⟩ <;> simp [e]

@[simp] theorem release_data (h k : Handle) (n : Nat) (p : Pool) :
    ((p.release h n).buf k).data = (p.buf k).data := by
  rcases release_cases h n p with ⟨-, e⟩ | ⟨-, e⟩ <;> simp [e]

@[simp] theorem release_born (h k : Handle) (n : Nat) (p : Pool) :
    ((p.release h n).buf k).born = (p.buf k).born := by
  rcases release_cases h n p with ⟨-, e⟩ | ⟨-, e⟩ <;> simp [e]

theorem release_inFlight (h k : Handle) (n : Nat) (p : Pool) :
    ((p.release h n).buf k).inFlight = if k = h then (p.buf h).inFlight - n else (p.buf k).inFlight := by
  rcases release_cases h n p with ⟨e0, e⟩ | ⟨-, e⟩ <;> simp [e, setInFlight_inFlight]
  rw [e0]

theorem release_perm {p : Pool} (hp : p.handles.Perm [0, 1, 2, 3]) (h : Handle) (n : Nat) :
    (p.release h n).handles.Perm [0, 1, 2, 3] := by
  rcases release_cases h n p with ⟨-, e⟩ | ⟨-, e⟩
  · rw [e]; exact moveTail_perm (by simpa [Pool.handles] using hp) h .render
  · rw [e]; simpa [Pool.handles] using hp

theorem mem_release_r {p : Pool} {h k : Handle} {n : Nat} (hk : k ∈ (p.release h n).r) :
    (k ∈ p.r ∧ k ≠ h) ∨ (k = h ∧ (p.buf h).inFlight - n = 0) ∨ (k ∈ p.r ∧ (p.buf h).inFlight - n ≠ 0) := by
  rcases release_cases h n p with ⟨e0, e⟩ | ⟨e0, e⟩
  · rw [e, mem_moveTail_r] at hk
    rcases hk with hk | hk
    · exact .inl (by simpa using hk)
    · exact .inr (.inl ⟨hk.1, e0⟩)
  · rw [e] at hk; exact .inr (.inr ⟨by simpa using hk, e0⟩)

theorem mem_release_w {p : Pool} {h k : Handle} {n : Nat} (hk : k ∈ (p.release h n).w) :
    k ∈ p.w ∧ (k ≠ h ∨ (p.buf h).inFlight - n ≠ 0) := by
  rcases release_cases h n p with ⟨e0, e⟩ | ⟨e0, e⟩
  · rw [e, mem_moveTail_w] at hk
    rcases hk with hk | hk
    · exact ⟨by simpa using hk.1, .inl hk.2⟩
    · exact absurd hk.2 (by decide)
  · rw [e] at hk; exact ⟨by simpa using hk, .inr e0⟩

/-! ### The selections -/

theorem selectForEncode_mem {p : Pool} {b : Handle} (h : selectForEncode p = some b) : b ∈ p.handles := by
  unfold selectForEncode at h
  split at h
  · rename_i x l e; simp [Pool.handles, e]; left; exact (Option.some.inj h).symm
  · split at h
    · simp [Pool.handles, List.mem_of_getLast? h]
    · simp [Pool.handles, List.mem_of_getLast? h]

theorem selectForTransmit_mem {p : Pool} {b : Handle} (h : selectForTransmit p = some b) : b ∈ p.handles := by
  unfold selectForTransmit at h
  split at h
  · rename_i x l e; simp [Pool.handles, e]; right; left; exact (Option.some.inj h).symm
  · split at h
    · simp [Pool.handles, List.mem_of_getLast? h]
    · simp [Pool.handles, List.mem_of_getLast? h]

/-- A pool with a handle in some queue always has a buffer to encode into (R220). -/
theorem selectForEncode_isSome {p : Pool} (h : p.handles ≠ []) : (selectForEncode p).isSome := by
  unfold selectForEncode
  split
  · rfl
  · rename_i e
    split
    · rename_i e'
      have : p.w ≠ [] := by simpa [Pool.handles, e, e'] using h
      simp [this]
    · rename_i e'; simp [e']

/-- A pool with a handle in some queue always has a buffer to send (R221). -/
theorem selectForTransmit_isSome {p : Pool} (h : p.handles ≠ []) : (selectForTransmit p).isSome := by
  unfold selectForTransmit
  split
  · rfl
  · rename_i e
    split
    · rename_i e'
      have : p.w ≠ [] := by simpa [Pool.handles, e, e'] using h
      simp [this]
    · rename_i e'; simp [e']

end Sys2Proof.Machine
end

