-- ==== Sys2Proof/Laws/Commands.lean ====
section
/-!
SUPPORT. What each command and each agent's step can do, said once each: a proof about commands cites these and
unfolds none of them.
-/

namespace Sys2Proof.Machine

variable {s : State} {r : Result}

/-! ### Commands -/

/-- Every check of R146 reports an error code. -/
theorem packCheck_isError {b : Bpp} {h : Handle} {code : Code} (hc : packCheck b h s = some code) :
    code.isError = true := by
  unfold packCheck at hc
  dsimp only at hc
  repeat' split at hc
  all_goals first
    | (rw [← Option.some.inj hc]; decide)
    | cases hc

/-- A PACK command (R146, R150-R152): ill-formed, refused by a check, done, or stuck at a host read. -/
theorem packCommand_cases {b : Bpp} {h : Nat} (e : packCommand b h s = r) :
    (∃ code, r = .next (finish code s) ∧ code.isError = true) ∨
    (∃ hh : h < 4, packCheck b ⟨h, hh⟩ s = none ∧
      r = .next (finish .ok (setRes 0 (BitVec.ofNat 32 ((packArgs s).n * b.toNat))
        (packLine b ⟨h, hh⟩ (packArgs s).off (packArgs s).src (packArgs s).n s)))) ∨
    r = .fault .hostReadStuck := by
  subst e
  unfold packCommand
  split
  · rename_i hh
    unfold packStep
    split
    · rename_i code hc
      refine .inl ⟨code, rfl, ?_⟩
      exact packCheck_isError hc
    · rename_i hc
      dsimp only
      split
      · exact .inr (.inl ⟨hh, hc, rfl⟩)
      · exact .inr (.inr rfl)
  · exact .inl ⟨_, rfl, by decide⟩

/-- SOLVE (R176): ERR_ARG, or RES0..RES3 written and OK or REJECTED. -/
theorem execSolve_cases (e : execSolve s = r) :
    r = .next (finish .errArg s) ∨
    (∃ best, r = .next (finish .ok (setPllRes best s))) ∨
    r = .next (finish .rejected (setSentinelRes s)) := by
  subst e
  unfold execSolve
  dsimp only
  split_ifs
  · exact .inl rfl
  · exact .inl rfl
  · unfold solveRequest
    dsimp only
    split_ifs
    · exact .inr (.inr rfl)
    · exact .inr (.inl ⟨_, rfl⟩)

/-- NEGOTIATE (R180): ERR_ARG, REJECTED with nothing else changed, or an accepted mode. -/
theorem execNegotiate_cases (e : execNegotiate s = r) :
    r = .next (finish .errArg s) ∨ r = .next (finish .rejected s) ∨
    ∃ delta best bpp, r = .next (finish .ok (acceptMode (argNat s 1) delta best bpp s)) := by
  subst e
  unfold execNegotiate
  dsimp only
  split_ifs
  · exact .inl rfl
  · exact .inr (.inl rfl)
  · split
    · exact .inr (.inl rfl)
    · split_ifs
      · exact .inr (.inl rfl)
      · exact .inr (.inr ⟨_, _, _, rfl⟩)

/-- CONFIGURE (R200). -/
theorem execConfigure_cases (e : execConfigure s = r) :
    r = .next (finish .errContract s) ∨ r = .next (finish .errRange s) ∨
    ∃ b, let size := roundUp8 (argNat s 0 * b.toNat)
      size ≤ s.env.par.maxBuf ∧
      r = .next (finish .ok (setRes 0 (BitVec.ofNat 32 size)
        { s with stream := { s.stream with bufSize := size, bpp := some b } })) := by
  subst e
  unfold execConfigure
  split
  · exact .inl rfl
  · rename_i b _
    dsimp only
    split_ifs with h
    · exact .inr (.inl rfl)
    · exact .inr (.inr ⟨b, Nat.le_of_not_lt h, rfl⟩)

/-- ENABLE (R210-R212). -/
theorem execEnable_cases (e : execEnable s = r) :
    (s.stream.eng = .running ∧ r = .next (finish .noop s)) ∨
    r = .next (finish .errState s) ∨
    r = .next (finish .errNomem (emit (.alloc .nomem) s)) ∨
    (s.stream.eng ≠ .running ∧ s.stream.eng ≠ .draining ∧ s.stream.bpp ≠ none ∧ s.stream.bufSize ≠ 0 ∧
      r = .next (finish .ok (startStream s.events.length (emit (.alloc .ok) s)))) := by
  subst e
  unfold execEnable
  split_ifs with h1 h2 h3
  · exact .inl ⟨h1, rfl⟩
  · exact .inr (.inl rfl)
  · exact .inr (.inl rfl)
  · split
    · exact .inr (.inr (.inl rfl))
    · rw [not_or] at h3
      exact .inr (.inr (.inr ⟨h1, h2, h3.1, h3.2, rfl⟩))

/-- DISABLE's own step (R215). -/
theorem execDisable_cases (e : execDisable s = r) :
    (s.hph = .disWait ∧ r = .next s) ∨
    ((s.stream.eng = .idle ∨ s.stream.eng = .stopped) ∧ r = .next (finish .noop s)) ∨
    (s.stream.eng = .running ∧ r = .next { s with
      stream := { s.stream with enabled := false, eng := .draining, dph := .join }, hph := .disWait }) ∨
    (s.stream.eng ≠ .idle ∧ s.stream.eng ≠ .stopped ∧ s.stream.eng ≠ .running ∧
      r = .next { s with hph := .disWait }) := by
  subst e
  unfold execDisable
  split_ifs with h1 h2 h3
  · exact .inl ⟨h1, rfl⟩
  · exact .inr (.inl ⟨h2, rfl⟩)
  · exact .inr (.inr (.inl ⟨h3, rfl⟩))
  · rw [not_or] at h2
    exact .inr (.inr (.inr ⟨h2.1, h2.2, h3, rfl⟩))

/-- The end of SUBMIT's select step: begun on a buffer of the right size, begun after a resize, out of memory, or
dropped (R222, R224). -/
theorem submitBegin_cases (b : Handle) (bpp : Bpp) (s : State) :
    ((s.pool.buf b).size = s.stream.bufSize ∧ submitBegin b bpp s = beginSubmit b bpp s) ∨
    ((s.pool.buf b).size ≠ s.stream.bufSize ∧ (s.pool.buf b).inFlight = 0 ∧ s.env.ans.alloc = .ok ∧
      submitBegin b bpp s = beginSubmit b bpp (resized b s)) ∨
    ((s.pool.buf b).size ≠ s.stream.bufSize ∧ (s.pool.buf b).inFlight = 0 ∧ s.env.ans.alloc = .nomem ∧
      submitBegin b bpp s = finish .errNomem (fatal (emit (.realloc b s.stream.bufSize .nomem) s))) ∨
    ((s.pool.buf b).size ≠ s.stream.bufSize ∧ (s.pool.buf b).inFlight ≠ 0 ∧
      submitBegin b bpp s = finish .dropped s) := by
  unfold submitBegin
  split_ifs with h1 h2
  · exact .inl ⟨h1, rfl⟩
  · cases ha : s.env.ans.alloc
    · exact .inr (.inl ⟨h1, h2, rfl, rfl⟩)
    · exact .inr (.inr (.inl ⟨h1, h2, rfl, rfl⟩))
  · exact .inr (.inr (.inr ⟨h1, h2, rfl⟩))

/-- SUBMIT's select step (R224). -/
theorem submitSelect_cases (e : submitSelect s = r) :
    (∃ code, r = .next (finish code s) ∧ (code = .dropped ∨ code.isError = true)) ∨
    (s.stream.eng = .running ∧ ∃ b bpp, selectForEncode s.pool = some b ∧ s.stream.bpp = some bpp ∧
      ¬ (submitArgs s).overflows bpp (sizeAfterResize b s) ∧ r = .next (submitBegin b bpp s)) ∨
    (s.stream.eng = .running ∧ selectForEncode s.pool = none ∧ r = .fault .poolCorrupt) ∨
    (s.stream.eng = .running ∧ s.stream.bpp = none ∧ r = .fault .bppContract) := by
  subst e
  unfold submitSelect
  dsimp only
  split_ifs with h1 h2 h3
  · exact .inl ⟨_, rfl, .inl rfl⟩
  · exact .inl ⟨_, rfl, .inr (by decide)⟩
  · exact .inl ⟨_, rfl, .inr (by decide)⟩
  · rw [ne_eq, not_not] at h1
    split
    · rename_i _ hb; exact .inr (.inr (.inl ⟨h1, hb, rfl⟩))
    · rename_i _ hb; exact .inr (.inr (.inr ⟨h1, hb, rfl⟩))
    · rename_i b bpp hb hbpp
      split_ifs with h4
      · exact .inl ⟨_, rfl, .inr (by decide)⟩
      · exact .inr (.inl ⟨h1, b, bpp, hb, hbpp, h4, rfl⟩)

/-- SUBMIT's line step (R225). -/
theorem submitLine_cases (e : submitLine s = r) :
    (∃ src, r = .next
      { packLine s.sub.bpp s.sub.h (s.sub.y * (s.sub.w * s.sub.bpp.toNat)) src s.sub.w s with
        sub := { s.sub with y := s.sub.y + 1 }
        hph := if s.sub.y + 1 = s.sub.hgt then .sbCommit else s.hph }) ∨
    r = .fault .hostReadStuck := by
  subst e
  unfold submitLine
  dsimp only
  split
  · exact .inl ⟨_, rfl⟩
  · exact .inr rfl

/-- SUBMIT (R223): a line, the commit, or the select step. -/
theorem execSubmit_cases (e : execSubmit s = r) :
    (s.hph = .sbLine ∧ submitLine s = r) ∨ (s.hph = .sbCommit ∧ submitCommit s = r) ∨
    (s.hph ≠ .sbLine ∧ s.hph ≠ .sbCommit ∧ submitSelect s = r) := by
  unfold execSubmit at e
  split at e <;> simp_all

/-! ### The Worker, the Bus and the Drain agent -/

/-- The Worker's wait step (R245). -/
theorem workerWait_cases (s : State) :
    (s.stream.enabled = false ∧ workerWait s = { s with worker := { s.worker with wph := .off } }) ∨
    (s.stream.enabled = true ∧ 0 < s.stream.credits ∧ workerWait s = { s with
      stream := { s.stream with credits := s.stream.credits - 1 }
      worker := { s.worker with wph := .select } }) ∨
    (s.stream.enabled = true ∧ s.stream.credits = 0 ∧ workerWait s = s) := by
  unfold workerWait
  split_ifs with h1 h2
  · exact .inl ⟨h1, rfl⟩
  · exact .inr (.inl ⟨by simpa using h1, h2, rfl⟩)
  · exact .inr (.inr ⟨by simpa using h1, by omega, rfl⟩)

/-- The Worker's select step (R246). -/
theorem workerSelect_cases (e : workerSelect s = r) :
    (s.stream.enabled = false ∧ r = .next { s with worker := { s.worker with wph := .off } }) ∨
    (s.stream.enabled = true ∧ selectForTransmit s.pool = none ∧ r = .fault .poolCorrupt) ∨
    (s.stream.enabled = true ∧ ∃ b, selectForTransmit s.pool = some b ∧ r = .next (selectBuffer b s)) := by
  subst e
  unfold workerSelect
  split_ifs with h1
  · exact .inl ⟨h1, rfl⟩
  · have h1 : s.stream.enabled = true := by simpa using h1
    cases hb : selectForTransmit s.pool
    · exact .inr (.inl ⟨h1, rfl, rfl⟩)
    · exact .inr (.inr ⟨h1, _, rfl, rfl⟩)

/-- One submission attempt (R247, R248, R250): accepted, retried later, or fatal. -/
theorem submission_cases (k : XferKind) (n : Nat) (p : WorkerPhase) (s : State) :
    (s.env.ans.submit = .ok ∧ submission k n p s = accepted k n p s) ∨
    (s.env.ans.submit = .nomem ∧ s.worker.retries < s.env.par.retryMax ∧
      submission k n p s = { s with
        events := s.events ++ [.submitFail s.worker.cur k .nomem]
        worker := { s.worker with retries := s.worker.retries + 1 } }) ∨
    (s.env.ans.submit ≠ .ok ∧ ¬ (s.env.ans.submit = .nomem ∧ s.worker.retries < s.env.par.retryMax) ∧
      submission k n p s = fatal { s with
        events := s.events ++ [.submitFail s.worker.cur k s.env.ans.submit]
        pool := s.pool.release s.worker.cur (unsent k s.worker.needZlp)
        worker := { s.worker with wph := .off } }) := by
  unfold submission submitFailed
  split_ifs with h1 h2
  · exact .inl ⟨h1, rfl⟩
  · refine .inr (.inl ⟨h2.1, h2.2, ?_⟩)
    rw [h2.1]; rfl
  · exact .inr (.inr ⟨h1, h2, rfl⟩)

/-- completeTransmit (R265), field by field. -/
theorem completeTransmit_eq (t : Transfer) (s : State) :
    completeTransmit t s = { s with
      bus := { s.bus with outs := s.bus.outs.filter (· != t) }
      pool := s.pool.release t.h 1
      stream := if t.kind = .main then { s.stream with credits := s.stream.credits + 1 } else s.stream
      events := if t.kind = .main then s.events ++ [.vblank] else s.events } := by
  unfold completeTransmit
  dsimp only
  split_ifs <;> rfl

/-- Everything a completion step can come to (R265-R268): a completion, one that is fatal, or a transfer that
stays outstanding after its one resubmission. `es` are the events before completeTransmit. -/
theorem completion_cases (t : Transfer) (st : XferStatus) (s : State) :
    ∃ es x, let u : State := { s with events := s.events ++ es, status := { s.status with xferErr := x } }
      completion t st s = completeTransmit t u ∨
      completion t st s = fatal (completeTransmit t u) ∨
      (t.rs = false ∧ completion t st s = markResubmitted t u) := by
  unfold completion
  cases st with
  | ok => exact ⟨[.complete t.id .ok], s.status.xferErr, .inl rfl⟩
  | cancelled => exact ⟨[.complete t.id .cancelled], s.status.xferErr, .inl rfl⟩
  | error => exact ⟨[.complete t.id .error], true, .inl rfl⟩
  | halt =>
    dsimp only
    unfold haltHandling
    split_ifs with h1
    · exact ⟨[.complete t.id .halt], s.status.xferErr, .inr (.inl rfl)⟩
    · dsimp only
      split_ifs with h2 h3
      · exact ⟨[.complete t.id .halt, .clearHalt s.env.ans.clear], s.status.xferErr,
          .inr (.inl (by simp [emit]))⟩
      · exact ⟨[.complete t.id .halt, .clearHalt s.env.ans.clear, .resubmit t.id s.env.ans.submit],
          s.status.xferErr, .inr (.inr ⟨by simpa using h1, by simp [emit]⟩)⟩
      · exact ⟨[.complete t.id .halt, .clearHalt s.env.ans.clear, .resubmit t.id s.env.ans.submit],
          s.status.xferErr, .inr (.inl (by simp [emit]))⟩

/-- The Bus agent's step (R265): nothing outstanding, or one outstanding transfer completes. -/
theorem busStep_cases (s : State) :
    (s.bus.outs = [] ∧ busStep s = s) ∨
    ∃ t ∈ s.bus.outs, busStep s = completion t (allowedStatus s.stream.cancelReq s.env.ans.status) s := by
  unfold busStep
  cases ht : chosenTransfer s with
  | none =>
    left
    refine ⟨?_, rfl⟩
    by_contra hne
    have : 0 < s.bus.outs.length := List.length_pos_iff.mpr hne
    have := Nat.mod_lt s.env.ans.pick this
    simp [chosenTransfer] at ht
    omega
  | some t => exact .inr ⟨t, List.mem_of_getElem? ht, rfl⟩

/-- The Drain agent's step (R271, R276, R278). -/
theorem drainStep_cases (s : State) :
    drainStep s = s ∨
    (s.stream.dph = .join ∧ s.worker.wph = .off ∧ drainStep s = drainJoin s) ∨
    (s.stream.dph = .waitXfers ∧ s.bus.outs ≠ [] ∧ drainStep s = drainCancel s) ∨
    ((s.stream.dph = .waitXfers ∨ s.stream.dph = .cancelling) ∧ s.bus.outs = [] ∧ s.sub.sb = false ∧
      drainStep s = drainFinish s) := by
  unfold drainStep
  split
  · exact .inl rfl
  · rename_i h
    split_ifs with h1
    · exact .inr (.inl ⟨h, h1, rfl⟩)
    · exact .inl rfl
  · rename_i h
    split_ifs with h1 h2
    · exact .inr (.inr (.inl ⟨h, h1, rfl⟩))
    · exact .inr (.inr (.inr ⟨.inl h, by simpa using h1, h2, rfl⟩))
    · exact .inl rfl
  · rename_i h
    split_ifs with h1
    · exact .inr (.inr (.inr ⟨.inr h, h1.1, h1.2, rfl⟩))
    · exact .inl rfl

/-! ### The port and the host's memory -/

/-- What a port access can do (R30-R34): start a command, drop one, write an operand, or observe. -/
theorem hostLine_cases (l : HostLine) (s : State) :
    (∃ w, s.status.busy = false ∧ hostLine l s = startCommand w s) ∨
    (s.status.busy = true ∧ hostLine l s = dropCommand s) ∨
    (∃ i v, hostLine l s = writeArg i v s) ∨
    (∃ obs, hostLine l s = { s with env := { s.env with obs := obs } }) := by
  cases l with
  | wr i v =>
    unfold hostLine
    dsimp only
    cases hr : Reg.ofIndex i with
    | cmd =>
      simp only [writeReg]
      split_ifs with hb
      · exact .inr (.inl ⟨hb, rfl⟩)
      · exact .inl ⟨v, by simpa using hb, rfl⟩
    | arg k => exact .inr (.inr (.inl ⟨k, v, rfl⟩))
    | _ => exact .inr (.inr (.inr ⟨s.env.obs, rfl⟩))
  | rd i => exact .inr (.inr (.inr ⟨_, rfl⟩))
  | wait => exact .inr (.inr (.inr ⟨s.env.obs, rfl⟩))

/-- The port's turn: the state stays, or one line is run with the rest of the program left (R118). -/
theorem portStep_cases (s : State) :
    portStep s = s ∨ ∃ l prog, portStep s = hostLine l { s with env := { s.env with prog := prog } } := by
  unfold portStep
  split
  · rename_i h
    refine .inr ⟨Config.freeLine s.env.tick, [], ?_⟩
    rw [← h]
  · split_ifs
    · exact .inl rfl
    · exact .inr ⟨_, _, rfl⟩

/-! ### One step -/

/-- The Host agent's step (R34, R57, R114). -/
theorem hostStep_cases (e : hostStep s = r) :
    (s.hph = .idle ∧ r = .next s) ∨ (s.hph = .disWait ∧ r = .next s) ∨
    (s.hph = .run ∧ (r = .next (finish .errIllegal s) ∨ r = .next (finish .errReserved s) ∨
      ∃ i, decode s.latch.cmd = .ok i ∧ exec i s = r)) ∨
    ((s.hph = .sbLine ∨ s.hph = .sbCommit) ∧ exec .submit s = r) := by
  unfold hostStep at e
  split at e <;> rename_i h
  · exact .inl ⟨h, e.symm⟩
  · refine .inr (.inr (.inl ⟨h, ?_⟩))
    unfold runCommand at e
    split at e
    · exact .inl e.symm
    · exact .inr (.inl e.symm)
    · rename_i i hi; exact .inr (.inr ⟨i, hi, e⟩)
  · exact .inr (.inr (.inr ⟨.inl h, e⟩))
  · exact .inr (.inr (.inr ⟨.inr h, e⟩))
  · exact .inr (.inl ⟨h, e.symm⟩)

/-- One step of the machine, by the agent whose turn it is (R18, R19). -/
theorem step_cases {t : State} (e : step s = .next t) :
    t = portStep (beginTurn s) ∨
    (∃ a b, t = hostStore a b (beginTurn s)) ∨
    hostStep (beginTurn s) = .next t ∨
    workerStep (beginTurn s) = .next t ∨
    t = busStep (beginTurn s) ∨
    t = drainStep (beginTurn s) ∨
    (resetAllowed (beginTurn s) = true ∧ t = resetBlock (beginTurn s)) := by
  unfold step machineStep agentStep at e
  split at e
  · cases e; exact .inl rfl
  · cases e; exact .inr (.inl ⟨_, _, rfl⟩)
  · exact .inr (.inr (.inl e))
  · exact .inr (.inr (.inr (.inl e)))
  · cases e; exact .inr (.inr (.inr (.inr (.inl rfl))))
  · cases e; exact .inr (.inr (.inr (.inr (.inr (.inl rfl)))))
  · unfold resetTurn at e
    split_ifs at e with h
    cases e
    exact .inr (.inr (.inr (.inr (.inr (.inr ⟨h, rfl⟩)))))

end Sys2Proof.Machine
end

