-- ==== Sys2Proof/Laws/Memory.lean ====
section
/-!
SUPPORT. The laws of byte memories: reads after writes, and that every operation keeps the canonical form.
-/

namespace Sys2Proof.Machine

@[simp] theorem Memory.get_nil (a : Nat) : Memory.get [] a = none := rfl

/-- Reading any address after one write. -/
theorem Memory.get_set (m : Memory) (a k : Nat) (b : Byte) :
    Memory.get (Memory.set m a b) k = if k = a then some b else Memory.get m k := by
  induction m with
  | nil =>
    by_cases h : k = a
    · subst h; simp [Memory.set, Memory.get]
    · simp [Memory.set, Memory.get, h, Ne.symm h]
  | cons c m ih =>
    unfold Memory.set
    split
    · by_cases h : k = a
      · subst h; simp [Memory.get]
      · simp [Memory.get, h, Ne.symm h]
    · split
      · rename_i hlt heq
        by_cases h : k = a
        · subst h; simp [Memory.get]
        · subst heq; simp [Memory.get, h, Ne.symm h]
      · rename_i hlt hne
        by_cases h : k = a
        · subst h
          simp [Memory.get, Ne.symm hne, ih]
        · simp [Memory.get, ih, h]

/-- A read after a write to the same address gives the value written. -/
theorem Memory.get_set_self (m : Memory) (a : Nat) (b : Byte) : Memory.get (Memory.set m a b) a = some b := by
  simp [Memory.get_set]

/-- A write leaves every other address alone. -/
theorem Memory.get_set_of_ne {a k : Nat} (h : k ≠ a) (m : Memory) (b : Byte) :
    Memory.get (Memory.set m a b) k = Memory.get m k := by
  simp [Memory.get_set, h]

/-- The value a run of writes leaves at an address: the last one there, else what stood before. -/
theorem Memory.get_setAll (m : Memory) (ws : List (Nat × Byte)) (k : Nat) :
    Memory.get (Memory.setAll m ws) k
      = (((ws.filter fun w => w.1 == k).map (·.2)).getLast?.or (Memory.get m k)) := by
  induction ws generalizing m with
  | nil => simp [Memory.setAll]
  | cons w ws ih =>
    simp only [Memory.setAll, ih, Memory.get_set]
    by_cases h : w.1 = k
    · subst h
      simp [List.getLast?_cons]
    · simp [h, Ne.symm h]

/-- A run of writes leaves every address it does not name alone. -/
theorem Memory.get_setAll_of_notMem {ws : List (Nat × Byte)} {k : Nat} (h : ∀ w ∈ ws, w.1 ≠ k) (m : Memory) :
    Memory.get (Memory.setAll m ws) k = Memory.get m k := by
  have : (ws.filter fun w => w.1 == k) = [] := by
    simpa [List.filter_eq_nil_iff] using h
  simp [Memory.get_setAll, this]

/-- Every address of `m` is above `a`. -/
theorem Memory.all_set {m : Memory} {a : Nat} {b : Byte} {p : Host.Cell → Bool} (hm : m.all p) (hp : p (a, b)) :
    (Memory.set m a b).all p := by
  induction m with
  | nil => simpa [Memory.set] using hp
  | cons c m ih =>
    simp only [List.all_cons, Bool.and_eq_true] at hm
    unfold Memory.set
    split
    · simp only [List.all_cons, Bool.and_eq_true]; exact ⟨hp, hm⟩
    · split
      · simp only [List.all_cons, Bool.and_eq_true]; exact ⟨hp, hm.2⟩
      · simp only [List.all_cons, Bool.and_eq_true]; exact ⟨hm.1, ih hm.2⟩

/-- One write keeps the canonical form. -/
theorem Memory.wf_set {m : Memory} (h : Memory.wf m = true) (a : Nat) (b : Byte) :
    Memory.wf (Memory.set m a b) = true := by
  induction m with
  | nil => simp [Memory.set, Memory.wf]
  | cons c m ih =>
    simp only [Memory.wf, Bool.and_eq_true] at h
    unfold Memory.set
    split
    · rename_i hlt
      simp only [Memory.wf, Bool.and_eq_true, List.all_cons, decide_eq_true_eq]
      refine ⟨⟨hlt, ?_⟩, h⟩
      have := h.1
      simp only [List.all_eq_true, decide_eq_true_eq] at this ⊢
      exact fun x hx => lt_trans hlt (this x hx)
    · split
      · rename_i hlt heq
        simp only [Memory.wf, Bool.and_eq_true]
        exact ⟨by simpa [heq] using h.1, h.2⟩
      · rename_i hlt hne
        simp only [Memory.wf, Bool.and_eq_true]
        exact ⟨Memory.all_set h.1 (by simp; omega), ih h.2⟩

/-- A run of writes keeps the canonical form. -/
theorem Memory.wf_setAll {m : Memory} (h : Memory.wf m = true) (ws : List (Nat × Byte)) :
    Memory.wf (Memory.setAll m ws) = true := by
  induction ws generalizing m with
  | nil => exact h
  | cons w ws ih => exact ih (Memory.wf_set h _ _)

/-- Writes below a bound keep every listed address below it. -/
theorem Memory.below_setAll {m : Memory} {n : Nat} {ws : List (Nat × Byte)} (h : Memory.below m n = true)
    (hw : ∀ w ∈ ws, w.1 < n) : Memory.below (Memory.setAll m ws) n = true := by
  induction ws generalizing m with
  | nil => exact h
  | cons w ws ih =>
    exact ih (Memory.all_set h (by simpa using hw w (by simp))) fun x hx => hw x (by simp [hx])

end Sys2Proof.Machine
end

