-- ==== Sys2Proof/Laws/PerInstr.lean ====
section
/-!
SUPPORT. Laws made per command: the opcode field of every encoded command is its opcode in the map R113.
-/

namespace Sys2Proof.Laws.EncodedOpcode

/-- The opcode map of R113. -/
def opcode : Instr → Nat
  | .pack332 _ => 0x01
  | .pack565 _ => 0x02
  | .pack888 _ => 0x03
  | .solve => 0x10
  | .negotiate => 0x11
  | .bwbpp => 0x12
  | .configure => 0x20
  | .enable => 0x21
  | .disable => 0x22
  | .submit => 0x23
  | .clrsts => 0x30

/-- A well-formed command is encoded with its own opcode, and its reserved bits are 0 (R111-R113). -/
def Statement (i : Instr) : Prop :=
  i.wellFormed = true → (fieldOpc (encode i)).toNat = opcode i ∧ fieldRsvH (encode i) = 0

/-- The words of format H, handle by handle. -/
theorem encodeH_fields : ∀ (h : Fin 4) (opc : Fin 4),
    (fieldOpc (encodeH opc h)).toNat = opc ∧ fieldRsvH (encodeH opc h) = 0 := by decide

theorem pack332 (h : Nat) : Statement (.pack332 h) := fun w =>
  encodeH_fields ⟨h, of_decide_eq_true w⟩ 1

theorem pack565 (h : Nat) : Statement (.pack565 h) := fun w =>
  encodeH_fields ⟨h, of_decide_eq_true w⟩ 2

theorem pack888 (h : Nat) : Statement (.pack888 h) := fun w =>
  encodeH_fields ⟨h, of_decide_eq_true w⟩ 3

theorem solve : Statement .solve := fun _ => by decide
theorem negotiate : Statement .negotiate := fun _ => by decide
theorem bwbpp : Statement .bwbpp := fun _ => by decide
theorem configure : Statement .configure := fun _ => by decide
theorem enable : Statement .enable := fun _ => by decide
theorem disable : Statement .disable := fun _ => by decide
theorem submit : Statement .submit := fun _ => by decide
theorem clrsts : Statement .clrsts := fun _ => by decide

end Sys2Proof.Laws.EncodedOpcode
end

