-- ==== Sys2Proof/Tests/Slice0.lean ====
section
/-!
SUPPORT. The package's own tests, expected values from spec/95_test_vectors.md or worked out from the rules, and a
witness for the hypotheses of every obligation that has some.
-/

namespace Sys2Proof.Tests

set_option Elab.async false

open Sys2Proof.Machine

/-! ### Small states -/

/-- Every answer the first of its set. -/
def answers : Answers :=
  { alloc := .ok, submit := .ok, pick := 0, status := .ok, clear := .ok, addr := 0, byte := 0 }

/-- Example parameters: 100 000 000 bytes per second in every class, packets of 512 bytes, one retry. -/
def params : Params :=
  { bwMax := Vector.replicate 8 100000000, mps := 512, retryMax := 1, maxBuf := 2 ^ 32 - 8 }

/-- The eight source pixels of L8 at 0x1000, little-endian (95_test_vectors.md). -/
def l8 : Memory :=
  [0x00, 0x00, 0xFF, 0x00, 0x00, 0xFF, 0x00, 0x00, 0xFF, 0x00, 0x00, 0x00, 0xFF, 0xFF, 0xFF, 0x00,
   0x00, 0x00, 0x00, 0x00, 0x80, 0x80, 0x80, 0x00, 0xC0, 0xE0, 0xE0, 0x00, 0x7F, 0x3F, 0x1F, 0x00].zipIdx.map
    fun x => (0x1000 + x.2, x.1)

/-- The reset state with the example parameters and L8 in host memory. -/
def base : State :=
  { State.reset with env := { State.reset.env with par := params, hm := l8, ans := answers } }

/-- A command has just started with these operands. -/
def started (a b c d : Word) (s : State) : State :=
  { s with latch := { cmd := 0, arg := #v[a, b, c, d] }, hph := .run, status := { s.status with busy := true } }

/-- A stream that runs, with four buffers of `size` bytes as ENABLE leaves them, negotiated at `bpp`. -/
def running (size : Nat) (bpp : Bpp) : State :=
  { base with
    stream := { base.stream with eng := .running, enabled := true, bufSize := size, bpp := some bpp, credits := 3 }
    pool := Pool.allocated size 0
    worker := { base.worker with wph := .wait }
    events := [.alloc .ok] }

/-- The next state of an outcome. -/
def after (r : Result) : State :=
  match r with
  | .next t => t
  | .fault _ => base
  | .refused _ => base

/-- Whether an outcome is a next state. -/
def completes (r : Result) : Bool :=
  match r with
  | .next _ => true
  | .fault _ => false
  | .refused _ => false

/-- The first `n` bytes of buffer `h`. -/
def bytes (s : State) (h : Handle) (n : Nat) : List (Option Byte) :=
  (List.range n).map fun i => Memory.get (s.pool.buf h).data i

/-- A state whose next turn is this agent's. -/
def turn (a : Agent) (s : State) : State := withTurn { who := a, ans := answers } s

/-! ### Well-formedness (R112, R118, R119) -/

theorem test_wf_pack332 : (Instr.pack332 4).wellFormed = false ∧ (Instr.pack332 3).wellFormed = true := by decide
theorem test_wf_pack565 : (Instr.pack565 4).wellFormed = false ∧ (Instr.pack565 3).wellFormed = true := by decide
theorem test_wf_pack888 : (Instr.pack888 4).wellFormed = false ∧ (Instr.pack888 3).wellFormed = true := by decide
theorem test_wf_line :
    (HostLine.wr 1 0).wellFormed = false ∧ (HostLine.wr 16 0).wellFormed = false ∧
    (HostLine.wr 0 0).wellFormed = true ∧ (HostLine.wr 12 0).wellFormed = true ∧
    (HostLine.wr 31 0).wellFormed = true := by decide
theorem test_wf_pseudo :
    (Pseudo.pack332 4 0 0 0).wellFormed = false ∧ (Pseudo.pack565 4 0 0 0).wellFormed = false ∧
    (Pseudo.pack888 4 0 0 0).wellFormed = false ∧ (Pseudo.pack888 3 0 0 0).wellFormed = true := by decide

/-! ### Decoding: words written out from R111-R113, and V60 -/

theorem test_decode_pack332 : decode 0b00000000000000000000001100000001 = .ok (.pack332 3) := by decide
theorem test_decode_pack565 : decode 0b00000000000000000000000100000010 = .ok (.pack565 1) := by decide
theorem test_decode_pack888 : decode 0b00000000000000000000001000000011 = .ok (.pack888 2) := by decide
theorem test_decode_solve : decode 0b00000000000000000000000000010000 = .ok .solve := by decide
theorem test_decode_negotiate : decode 0b00000000000000000000000000010001 = .ok .negotiate := by decide
theorem test_decode_bwbpp : decode 0b00000000000000000000000000010010 = .ok .bwbpp := by decide
theorem test_decode_configure : decode 0b00000000000000000000000000100000 = .ok .configure := by decide
theorem test_decode_enable : decode 0b00000000000000000000000000100001 = .ok .enable := by decide
theorem test_decode_disable : decode 0b00000000000000000000000000100010 = .ok .disable := by decide
theorem test_decode_submit : decode 0b00000000000000000000000000100011 = .ok .submit := by decide
theorem test_decode_clrsts : decode 0b00000000000000000000000000110000 = .ok .clrsts := by decide
theorem test_decode_illegal :
    decode 0x00000000 = .error .illegalOpcode ∧ decode 0x00000004 = .error .illegalOpcode ∧
    decode 0xFFFFFF13 = .error .illegalOpcode := by decide
theorem test_decode_reserved :
    decode 0x00000110 = .error .reservedBits ∧ decode 0x00000401 = .error .reservedBits ∧
    decode 0x80000021 = .error .reservedBits := by decide
theorem test_table_word : decodeTableWord 32 0x00000203 = some (.pack888 2) := by decide

/-! ### The port (R35, R41, R47, V41, V60, P2) -/

theorem test_status_word :
    statusWord { busy := true, code := .errBounds, streamFault := false, xferErr := false, cmdOverrun := true }
      = 0x00041401 := by decide
theorem test_engstate_word : engstateWord (running 8 .one) = 0x0000401A := by decide +kernel
theorem test_pll_out_word :
    pllOutWord { valid := true, cfg := { p := 2, m := 121, d := 24, band := 3 } } = 0x83187902 := by decide
theorem test_port_command :
    let s := portStep { base with env := { base.env with prog := [.wr 0 0x30, .wait] } }
    s.hph = .run ∧ s.latch.cmd = 0x30 ∧ s.env.prog = [.wait] := by decide +kernel

/-! ### PixelPacker (V2, V30, V31, V32, V34) -/

theorem test_c332 : c332 0x00FF0080 = 0xE2 ∧ c332 0x001F3F7F = 0x05 ∧ c332 0xAB123456 = 0x05 := by decide
theorem test_c565 : c565 0x00FF0080 = 0xF810 ∧ c565 0x00E0E0C0 = 0xE718 ∧ c565 0x00080408 = 0x0821 := by decide
theorem test_maxOff :
    (List.range 17).map (fun i => maxOff 0 (i + 1)) = [4, 5, 6, 7, 7, 7, 7, 7, 12, 13, 14, 15, 15, 15, 15, 15, 20] := by
  decide
theorem test_pack332 :
    let t := after (exec (.pack332 0) (started 0x1000 3 8 0 (running 24 .three)))
    bytes t 0 11 = [none, none, none, some 0x00, some 0x92, some 0xFF, some 0x05, some 0xE0, some 0x1C, some 0x03,
      some 0xFF] ∧ t.regs.res[0] = 8 ∧ t.status.code = .ok := by decide +kernel
theorem test_pack565 :
    let t := after (exec (.pack565 1) (started 0x1000 0 8 0 (running 24 .three)))
    bytes t 1 16 = [0x1F, 0x00, 0xFF, 0xFF, 0x00, 0xF8, 0xE0, 0x07, 0x18, 0xE7, 0xEF, 0x19, 0x00, 0x00, 0x10,
      0x84].map some ∧ t.regs.res[0] = 16 := by decide +kernel
theorem test_pack888 :
    let t := after (exec (.pack888 0) (started 0x1000 0 8 0 (running 24 .three)))
    bytes t 0 24 = [0xFF, 0x00, 0xFF, 0x00, 0x00, 0x00, 0xFF, 0x00, 0x00, 0x00, 0x00, 0x80, 0x00, 0xFF, 0xFF, 0xFF,
      0xE0, 0x7F, 0x3F, 0x1F, 0x80, 0x80, 0xC0, 0xE0].map some ∧ t.regs.res[0] = 24 := by decide +kernel
theorem test_pack_hole :
    bytes (after (exec (.pack888 0) (started 0x1000 0 3 0 (running 16 .three)))) 0 16
      = [some 0xFF, some 0x00, some 0xFF, some 0x00, some 0x00, some 0x00, some 0xFF, some 0x00, none, none, none,
        none, some 0x00, none, none, none] := by decide +kernel
theorem test_pack_checks :
    (after (exec (.pack332 0) (started 0x1002 0 1 0 base))).status.code = .errState ∧
    (after (exec (.pack888 0) (started 0x1002 0 1 0 (running 24 .three)))).status.code = .errAlign ∧
    (after (exec (.pack332 0) (started 0xFFFFFFFC 0 2 0 (running 24 .three)))).status.code = .errBounds ∧
    (after (exec (.pack332 0) (started 0xFFFFFFFC 0 1 0 (running 24 .three)))).status.code = .ok ∧
    (after (exec (.pack888 0) (started 0x1000 0 9 0 (running 24 .three)))).status.code = .errBounds ∧
    (after (exec (.pack565 0) (started 0x1000 20 1 0 (running 24 .three)))).status.code = .errBounds ∧
    (after (exec (.pack332 0) (started 0x1000 0xFFFFFFFF 0 0 (running 24 .three)))).status.code = .ok := by
  decide +kernel

/-! ### ClockSolver and ModeNegotiator (V3, V10, V12, V14, V15) -/

/-- V3 and V13: 25 MHz is met exactly, first by p = 1, m = 10, d = 4. -/
theorem test_search_25MHz :
    search 25000000000000
      = { cfg := { p := 1, m := 10, d := 4, band := 0 }, err := 0, a := 25000000000000 } := by decide +kernel
/-- V10: 25.175 MHz, 1324 ppm off. -/
theorem test_search_25175kHz :
    search 25175000000000
      = { cfg := { p := 2, m := 121, d := 24, band := 3 }, err := 1324, a := 25208333333333 } := by decide +kernel
theorem test_candidates : candidates.length = 13440 := by decide +kernel
theorem test_solve :
    let t := after (exec .solve (started 25000000 800 0 0 base))
    t.regs.res[0] = 0x00040A01 ∧ t.regs.res[1] = 0 ∧ t.regs.res[2] = 0 ∧ t.regs.res[3] = 25000 ∧
      t.status.code = .ok := by decide +kernel
theorem test_solve_errArg :
    (after (exec .solve (started 25000000 800 0xFFFFFCE0 0 base))).status.code = .errArg ∧
    (after (exec .solve (started 1 2000000 0xFFE17B81 0 base))).status.code = .errArg := by decide +kernel
theorem test_negotiate :
    let t := after (exec .negotiate (started 25000000 800 0xFFFFFFFA 0 base))
    t.regs.res[0] = 0x00040A01 ∧ t.regs.res[3] = 25000 ∧ t.regs.res[4] = 800 ∧ t.regs.res[5] = 3 ∧
      t.regs.res[6] = 0 ∧ pllOutWord t.pll = 0x80040A01 ∧
      t.events = [.pll { p := 1, m := 10, d := 4, band := 0 }] := by decide +kernel
theorem test_negotiate_ceiling :
    (after (exec .negotiate (started 501000000 2200 0 0 base))).status.code = .rejected := by decide +kernel
theorem test_deltas :
    deltas = [0, -1, 1, -2, 2, -3, 3, -4, 4, -5, 5, -6, 6, -7, 7, -8, 8, -9, 9, -10, 10] := by decide
/-- V15's table with 60 000 000 bytes per second. -/
theorem test_bwbpp :
    let par := { params with bwMax := Vector.replicate 8 60000000 }
    ([0, 10000, 20000, 20001, 30001, 60000, 60001].map fun k => bandwidthBpp par k 2) = [0, 3, 3, 2, 1, 1, 0] := by
  decide +kernel

/-! ### Stream commands (V40, V41, V42, V43, V44, V45) -/

theorem test_configure :
    (after (exec .configure (started 7 3 0 0 base))).stream.bufSize = 24 ∧
    (after (exec .configure (started 8 4 0 0 base))).status.code = .errContract ∧
    (after (exec .configure (started 0xFFFFFFFF 3 0 0 base))).status.code = .errRange := by decide +kernel
theorem test_enable :
    let s := started 0 0 0 0 { base with stream := { base.stream with bufSize := 8, bpp := some .one } }
    let t := after (exec .enable s)
    engstateWord t = 0x0000401A ∧ t.stream.credits = 3 ∧ t.pool.r = [0, 1, 2, 3] ∧
    (after (exec .enable (started 0 0 0 0 base))).status.code = .errState ∧
    (after (exec .enable (started 0 0 0 0 (running 8 .one)))).status.code = .noop := by decide +kernel
theorem test_disable :
    (after (exec .disable (started 0 0 0 0 base))).status.code = .noop ∧
    (after (exec .disable (started 0 0 0 0 (running 8 .one)))).hph = .disWait ∧
    (after (exec .disable (started 0 0 0 0 (running 8 .one)))).stream.eng = .draining := by decide +kernel
theorem test_submit_codes :
    (after (exec .submit (started 0x2002 4 2 16 base))).status.code = .dropped ∧
    (after (exec .submit (started 0x2000 4 2 18 (running 32 .two)))).status.code = .errAlign ∧
    (after (exec .submit (started 0xFFFFFFF0 4 2 16 (running 32 .two)))).status.code = .errBounds ∧
    (after (exec .submit (started 0x2000 4 5 16 (running 32 .two)))).status.code = .errBounds ∧
    (after (exec .submit (started 0x2000 4 4 16 (running 32 .two)))).hph = .sbLine ∧
    (after (exec .submit (started 0x2000 0 5 16 (running 32 .two)))).hph = .sbCommit ∧
    (after (exec .submit (started 0x2000 2 2 8 (running 8 .two)))).status.code = .errBounds := by decide +kernel
/-- V44: a stale buffer that is idle is reallocated; when the allocation fails the stream is taken down. -/
theorem test_submit_resize :
    let s := started 0x2000 16 1 64 { running 8 .one with stream := { (running 8 .one).stream with bufSize := 16 } }
    let t := after (exec .submit s)
    let u := after (exec .submit { s with env := { s.env with ans := { answers with alloc := .nomem } } })
    (t.pool.buf 0).size = 16 ∧ t.hph = .sbLine ∧ t.events.getLast? = some (.realloc 0 16 .ok) ∧
    statusWord u.status = 0x00011500 ∧ u.stream.eng = .draining ∧ u.stream.dph = .join := by decide +kernel
theorem test_selections :
    let p (r t w : List Handle) : Pool := { Pool.allocated 8 0 with r := r, t := t, w := w }
    selectForEncode (p [0, 1, 2, 3] [] []) = some 0 ∧ selectForTransmit (p [0, 1, 2, 3] [] []) = some 3 ∧
    selectForEncode (p [] [3, 0] [1, 2]) = some 0 ∧ selectForTransmit (p [] [3, 0] [1, 2]) = some 3 ∧
    selectForEncode (p [] [] [0, 1, 2, 3]) = some 3 ∧ selectForTransmit (p [2] [] [0, 1, 3]) = some 2 := by
  decide +kernel
theorem test_clrsts :
    let s := { base with status := { base.status with streamFault := true, busy := true, code := .noop } }
    statusWord (after (exec .clrsts s)).status = 0 := by decide +kernel

/-! ### The agents (V46, V47, R276-R278) -/

/-- A stream whose Worker has chosen buffer 3 and counted its MAIN and its companion (size 8, packets of 512). -/
def sending : State :=
  { running 8 .one with
    stream := { (running 8 .one).stream with credits := 2 }
    pool := { (Pool.allocated 8 0).setInFlight 3 2 with r := [0, 1, 2], w := [3] }
    worker := { wph := .subMain, cur := 3, needZlp := true, retries := 0 } }

/-- The MAIN and the companion of buffer 3 are outstanding. -/
def sent : State := after (workerStep (after (workerStep sending)))

theorem test_worker_sends :
    sent.events = [.alloc .ok, .submitXfer 0 3 .main 8, .submitXfer 1 3 .zlp 0] ∧ sent.worker.wph = .wait ∧
    sent.bus.nextId = 2 := by decide +kernel
theorem test_worker_gives_up :
    let s := { sending with env := { sending.env with ans := { answers with submit := .nomem } } }
    let t := after (workerStep (after (workerStep s)))
    t.events = [.alloc .ok, .submitFail 3 .main .nomem, .submitFail 3 .main .nomem, .fault] ∧
    (t.pool.buf 3).inFlight = 0 ∧ t.pool.r = [0, 1, 2, 3] ∧ t.worker.wph = .off ∧ t.stream.eng = .draining := by
  decide +kernel
theorem test_bus_completes :
    let t := busStep sent
    let u := busStep t
    (t.pool.buf 3).inFlight = 1 ∧ t.stream.credits = 3 ∧ t.events.getLast? = some .vblank ∧
    (u.pool.buf 3).inFlight = 0 ∧ u.pool.r = [0, 1, 2, 3] ∧ u.pool.w = [] ∧ u.stream.credits = 3 := by decide +kernel
theorem test_bus_halt :
    let s := { sent with env := { sent.env with ans := { answers with status := .halt, clear := .fail } } }
    (busStep s).events.drop 3 = [.complete 0 .halt, .clearHalt .fail, .vblank, .fault] := by decide +kernel
theorem test_drain :
    let s := { running 8 .one with
      stream := { (running 8 .one).stream with eng := .draining, enabled := false, dph := .join }
      worker := Worker.reset, hph := .disWait, status := { base.status with busy := true } }
    let t := drainStep (drainStep s)
    engstateWord t = 0x00000004 ∧ t.status.code = .ok ∧ t.hph = .idle ∧ t.events.getLast? = some .free := by
  decide +kernel

/-- A step of the whole machine: the first command after reset runs, and the core's step is this step. -/
theorem test_first_command :
    (after (step (State.reset.withFetchWord 32 0x30))).status.code = .ok ∧
    (after (step (State.reset.withFetchWord 32 0x30))).hph = .idle := by decide +kernel

/-! ### Witnesses: a concrete case for the hypotheses of every obligation that has some, clause by clause -/

theorem witness_DecodeEncodeAgree :
    (Instr.pack888 3).wellFormed = true ∧ decode 0x00000303 = .ok (.pack888 3) := by decide

/-- BadWordsFinish: an unknown opcode with every reserved bit set, the lowest reserved bit of each format, the
highest, and a legal word. -/
theorem witness_BadWordsFinish :
    (started 0 0 0 0 base).hph = .run ∧
    ¬ (0xFFFFFF13 % 256 ∈ [0x01, 0x02, 0x03, 0x10, 0x11, 0x12, 0x20, 0x21, 0x22, 0x23, 0x30]) ∧
    0x401 % 256 < 0x04 ∧ 0x401 / 1024 ≠ 0 ∧ ¬ 0x110 % 256 < 0x04 ∧ 0x110 / 256 ≠ 0 ∧ 0x80000021 / 256 ≠ 0 ∧
    0x303 % 256 < 0x04 ∧ ¬ 0x303 / 1024 ≠ 0 := by decide

theorem witness_StepRunsDecodedCommand :
    let s := turn .host (started 0 0 0 0 base)
    let run := { s with latch := { s.latch with cmd := 0x30 } }
    (nextTurn run.env).who = .host ∧ run.hph = .run ∧ decode run.latch.cmd = .ok .clrsts ∧
    (nextTurn { s with hph := .sbLine }.env).who = .host ∧ (nextTurn { s with hph := .disWait }.env).who = .host ∧
    Instr.clrsts.wellFormed = true := by decide +kernel

theorem witness_ReservedAndReadOnlyRegisters :
    (7 : BitVec 5).toNat = 7 ∧ 12 ≤ (12 : BitVec 5).toNat ∧ (15 : BitVec 5).toNat ≤ 15 ∧
    24 ≤ (24 : BitVec 5).toNat ∧ 24 ≤ (31 : BitVec 5).toNat ∧ 1 ≤ (1 : BitVec 5).toNat := by decide

theorem witness_CommandWriteStartsOrDrops :
    base.status.busy = false ∧ (started 0 0 0 0 base).status.busy = true ∧ decode 0x23 = .ok .submit := by
  decide +kernel

theorem witness_PortReads :
    let s := { running 8 .one with
      pll := { valid := true, cfg := { p := 2, m := 128, d := 128, band := 3 } }
      regs := (setRes 7 5 base).regs }
    s.pool.nb < 8 ∧ s.pll.valid = true ∧ s.pll.cfg.p < 256 ∧ s.pll.cfg.m < 256 ∧ s.pll.cfg.d < 256 ∧
    s.pll.cfg.band < 4 ∧ base.pll.valid = false ∧ s.stream.bufSize < 2 ^ 32 ∧ s.stream.credits < 2 ^ 32 ∧
    s.regs.resWritten[7] = true ∧ s.regs.resWritten[6] = false ∧ (7#5).toNat = 7 ∧ 12 ≤ (12#5).toNat ∧
    (15#5).toNat ≤ 15 ∧ 24 ≤ (24#5).toNat := by decide +kernel

theorem witness_ProgramLines :
    let s := { base with env := { base.env with prog := [.wait, .rd 1] } }
    s.env.prog = HostLine.wait :: [.rd 1] ∧ s.status.busy = false ∧ (started 0 0 0 0 s).status.busy = true ∧
    (started 0 0 0 0 s).env.prog = HostLine.wait :: [.rd 1] ∧ HostLine.rd 1 ≠ .wait := by decide +kernel

theorem witness_PseudoStartsCommand :
    (Pseudo.pack888 3 0x1000 0 8).wellFormed = true ∧ (Pseudo.cmd 0x401).wellFormed = true ∧
    base.status.busy = false := by decide +kernel

/-- ErrorsChangeNothing: CONFIGURE with 4 bytes per pixel, ENABLE and SUBMIT whose allocations fail. -/
theorem witness_ErrorsChangeNothing :
    let nomem : Answers := { answers with alloc := .nomem }
    let stale := { running 8 .one with
      stream := { (running 8 .one).stream with bufSize := 16 }, env := { base.env with ans := nomem } }
    let idle := { base with
      stream := { base.stream with bufSize := 8, bpp := some .one }, env := { base.env with ans := nomem } }
    (∃ t, exec .configure (started 8 4 0 0 base) = .next t ∧ t.hph = .idle ∧ 0x10 ≤ t.status.code.toByte.toNat) ∧
    (∃ t, exec .enable (started 0 0 0 0 idle) = .next t ∧ t.hph = .idle ∧ 0x10 ≤ t.status.code.toByte.toNat) ∧
    ∃ t, exec .submit (started 0x2000 16 1 64 stale) = .next t ∧ t.hph = .idle ∧
      0x10 ≤ t.status.code.toByte.toNat :=
  ⟨⟨_, rfl, by decide +kernel, by decide +kernel⟩, ⟨_, rfl, by decide +kernel, by decide +kernel⟩,
   ⟨_, rfl, by decide +kernel, by decide +kernel⟩⟩

theorem witness_ResultRegistersKept : ∃ t, exec .bwbpp (started 25208 2 0 0 base) = .next t := ⟨_, rfl⟩

theorem witness_CommandsKeepHostSide :
    (∃ t, exec .clrsts (started 0 0 0 0 base) = .next t) ∧ Instr.clrsts ≠ .negotiate := ⟨⟨_, rfl⟩, by decide⟩

theorem witness_PixelConversions :
    (0xAB123456 : Word) &&& 0x00FFFFFF = (0x00123456 : Word) &&& 0x00FFFFFF := by decide

theorem witness_FootprintLargest : 0 < 1 ∧ 10 ≤ 10 ∧ 10 ≤ maxOff 10 1 ∧ maxOff 10 1 ≤ maxOff 10 1 := by decide

theorem witness_HostMemoryReads :
    Memory.get base.env.hm 0x1002 = some 0xFF ∧ (∀ o ∈ base.env.hmOld, o.1 ≠ 0x1002) ∧
    Memory.wf base.env.hm = true ∧ base.status.busy = false ∧ (started 0 0 0 0 base).status.busy = true := by
  decide +kernel

/-- The host memory of `base` but for addresses 0x1020 and above. -/
def bounded (s : State) : State := { s with env := { s.env with absent := [(0x1020, 0xFFFFFFFF)] } }

/-- Every byte of L8 is admitted, the last just below the absent range. -/
theorem l8_admitted (s : State) : Admitted (bounded s).env 0x1000 (4 * 8) := by
  intro g hg x _ h2
  have : g = (0x1020, 0xFFFFFFFF) := by simpa [bounded] using hg
  subst this
  intro h
  have := h.1
  simp only at this
  omega

/-- PackWritesScanline: n = 8 in each format, the buffer just large enough; and n = 0. -/
theorem witness_PackWritesScanline :
    (∀ b : Bpp, ∀ s, s = bounded (started 0x1000 0 8 0 (running (8 * b.toNat) b)) → s.pool.nb = 4 ∧
      0x1000 % 4 = 0 ∧ 0x1000 + 4 * 8 ≤ 2 ^ 32 ∧ 8 * b.toNat ≤ 2 ^ 32 - 1 ∧
      (∀ i < 8 * b.toNat, 0 + (i ^^^ 4) < (s.pool.buf 0).size) ∧ Admitted s.env 0x1000 (4 * 8)) ∧
    (∀ i < 0 * 3, 0xFFFFFFFF + (i ^^^ 4) < 0) := by
  refine ⟨?_, by decide⟩
  intro b s e
  subst e
  refine ⟨rfl, by decide, by decide, ?_, ?_, l8_admitted _⟩
  · cases b <;> decide
  · cases b <;> decide +kernel

theorem witness_PackChecksInOrder :
    base.pool.nb ≠ 4 ∧ (running 24 .three).pool.nb = 4 ∧ 0x1002 % 4 ≠ 0 ∧ 0x1000 % 4 = 0 ∧
    0xFFFFFFFC % 4 = 0 ∧ 2 ^ 32 < 0xFFFFFFFC + 4 * 2 ∧ 0xFFFFFFFC + 4 * 1 ≤ 2 ^ 32 ∧
    (∃ i < 9 * 3, ((running 24 .three).pool.buf 0).size ≤ 0 + (i ^^^ 4)) ∧ (0 : Nat) + 4 * 0x40000000 ≤ 2 ^ 32 := by
  refine ⟨by decide +kernel, by decide +kernel, by decide, by decide, by decide, by decide, by decide,
    ⟨24, by decide, by decide +kernel⟩, by decide⟩

theorem witness_AbsentSourceIsStuck :
    let s := bounded (started 0x101C 0 2 0 (running 24 .three))
    let line := bounded { running 8 .one with
      hph := .sbLine, sub := { SubmitCtx.reset with src := 0x101C, w := 2, hgt := 1 } }
    packCheck .one 0 s = none ∧ ¬ Admitted s.env 0x101C (4 * 2) ∧
    line.hph = .sbLine ∧ ¬ Admitted line.env (0x101C + 0 * 0) (4 * 2) := by
  refine ⟨by decide +kernel, ?_, rfl, ?_⟩ <;>
    exact fun h => h (0x1020, 0xFFFFFFFF) (by simp [bounded]) 0x1020 (by decide) (by decide) (by decide)

theorem witness_Search : 1 ≤ 1 ∧ PllLegal 2 13 128 ∧ PllLegal 1 100 2 ∧ ScanBefore 1 7 2 2 13 128 := by
  unfold PllLegal ScanBefore; decide

/-- SolveOutcomes: each ERR_ARG condition at its boundary, and the smallest request that runs. -/
theorem witness_SolveOutcomes :
    (800 : Int) + (0xFFFFFCE0 : Word).toInt < 1 ∧ 1 * 10 ^ 6 * (1 : Int).toNat / 2000000 = 0 ∧
    1 ≤ (800 : Int) + (0xFFFFFCE1 : Word).toInt ∧ 1 ≤ 1 * 10 ^ 6 * (1 : Int).toNat / 800 := by decide

/-- NegotiateAccepts: 25 MHz at htotal 800 is accepted at perturbation 0 with 3 bytes per pixel. -/
theorem witness_NegotiateAccepts :
    tryRequest 25000000 800 0 = 25000000000000 ∧ TryAccepts 25000000 800 0 ∧
    (∀ j < 0, ¬ TryAccepts 25000000 800 j) ∧
    bwFormula base.env.par ((search (tryRequest 25000000 800 0)).a / 10 ^ 9) 2 ≠ 0 ∧
    (800 : Int) + htDelta 0 < 2 ^ 32 := by
  have e : tryRequest 25000000 800 0 = 25000000000000 := by decide
  refine ⟨e, ⟨by decide, by decide, ?_⟩, by omega, ?_, by decide⟩
  · rw [e, test_search_25MHz]; decide
  · rw [e, test_search_25MHz]; decide +kernel

/-- The smallest clock of R178 bounds every candidate's from below. -/
theorem candidates_clock : (candidates.all fun c => decide (507812500000 ≤ c.clock)) = true := by decide +kernel

/-- What every candidate's error is at least, the best's is. -/
theorem le_scan_err {r x : Nat} (cs : List Candidate) (best : Best) (hc : ∀ c ∈ cs, x ≤ c.error r)
    (hb : x ≤ best.err) : x ≤ (scan r cs best).err := by
  induction cs generalizing best with
  | nil => exact hb
  | cons c cs ih =>
    unfold scan
    split
    · exact ih _ (fun d hd => hc d (by simp [hd])) (hc c (by simp))
    · exact ih _ (fun d hd => hc d (by simp [hd])) hb

/-- A request of at most 3 Hz is met by no candidate within 500 ppm. -/
theorem small_request_fails {r : Nat} (h1 : 1 ≤ r) (h2 : r ≤ 3000000) : 500 ≤ (search r).err := by
  refine le_scan_err _ _ (fun c hc => ?_) (by decide)
  have hk := List.all_eq_true.1 candidates_clock c hc
  have hk : 507812500000 ≤ c.clock := of_decide_eq_true hk
  unfold Candidate.error ppmError absDiff micro
  rw [Nat.le_div_iff_mul_le (by omega)]
  omega

/-- NegotiateRejects: each clause, the search at V14's first case. -/
theorem witness_NegotiateRejects :
    500000000 < 500000001 ∧ (∀ k ≤ 20, ¬ TryAccepts 1 5 k) ∧ TryAccepts 25000000 800 0 ∧
    (∀ j < 0, ¬ TryAccepts 25000000 800 j) ∧
    bwFormula { params with bwMax := Vector.replicate 8 0 } ((search (tryRequest 25000000 800 0)).a / 10 ^ 9) 2
      = 0 := by
  refine ⟨by decide, ?_, witness_NegotiateAccepts.2.1, by omega, ?_⟩
  · intro k hk h
    have hb : ∀ k ≤ 20, tryRequest 1 5 k ≤ 3000000 := by decide
    have := small_request_fails h.2.1 (hb k hk)
    have := h.2.2
    omega
  · rw [witness_NegotiateAccepts.1, test_search_25MHz]; decide

/-- ConfigureOutcomes: the parameters' constraints, bpp 0 and 4, and sizes at and above the largest buffer. -/
theorem witness_ConfigureOutcomes :
    let par := { params with maxBuf := 24 }
    par.wf ∧ base.env.par.wf ∧ (0 = 0 ∨ 3 < 0) ∧ (4 = 0 ∨ 3 < 4) ∧ (8 * 3 + 7) / 8 * 8 ≤ par.maxBuf ∧
    par.maxBuf < (9 * 3 + 7) / 8 * 8 ∧ (0 * 1 + 7) / 8 * 8 ≤ par.maxBuf := by decide +kernel

theorem witness_EnableOutcomes :
    let idle := { base with stream := { base.stream with bufSize := 8, bpp := some .one } }
    let nomem := { idle with env := { idle.env with ans := { answers with alloc := .nomem } } }
    (running 8 .one).stream.eng = .running ∧ { base.stream with eng := .draining }.eng = .draining ∧
    base.stream.eng ≠ .running ∧ base.stream.eng ≠ .draining ∧ base.stream.bpp = none ∧
    { base.stream with bpp := some .one }.bufSize = 0 ∧ idle.stream.eng ≠ .running ∧ idle.stream.eng ≠ .draining ∧
    idle.stream.bpp ≠ none ∧ idle.stream.bufSize ≠ 0 ∧ nomem.env.ans.alloc = .nomem ∧ idle.env.ans.alloc = .ok := by
  decide +kernel

theorem witness_DisableFirstStep :
    (started 0 0 0 0 base).hph ≠ .disWait ∧ base.stream.eng = .idle ∧ (running 8 .one).stream.eng = .running ∧
    (drainFree (running 8 .one)).stream.eng = .stopped ∧ { base with hph := .disWait }.hph = .disWait ∧
    (fatal (running 8 .one)).stream.eng = .draining := by decide +kernel

theorem witness_SelectionPolicies :
    (running 8 .one).pool.r = 0 :: [1, 2, 3] ∧ ([3, 0] : List Handle) = [3] ++ [0] ∧
    ((running 8 .one).pool.r ++ (running 8 .one).pool.t ++ (running 8 .one).pool.w).Perm [0, 1, 2, 3] := by
  decide +kernel

/-- SubmitRefusals: V43's rows, each at its boundary. -/
theorem witness_SubmitRefusals :
    let s := started 0x2000 4 5 16 (running 32 .two)
    s.hph ≠ .sbLine ∧ s.hph ≠ .sbCommit ∧ base.stream.eng ≠ .running ∧ s.stream.eng = .running ∧
    0x2002 % 4 ≠ 0 ∧ 18 % 4 ≠ 0 ∧ 2 ^ 32 < 0xFFFFFFF0 + (2 - 1) * 16 + 4 * 4 ∧
    ¬ (0 < 4 ∧ 0 < 5 ∧ 2 ^ 32 < 0x2000 + (5 - 1) * 16 + 4 * 4) ∧ selectForEncode s.pool = some 0 ∧
    s.stream.bpp = some .two ∧ (s.pool.buf 0).size = s.stream.bufSize ∧
    (s.pool.buf 0).size ≤ (5 - 1) * (4 * 2) + maxOff 0 (4 * 2) := by decide +kernel

/-- SubmitBegins: a fresh buffer that fits to the last byte, a stale idle one with both answers, and a stale one in
flight. -/
theorem witness_SubmitBegins :
    let s := started 0x2000 4 4 16 (running 32 .two)
    let idle := { s with stream := { s.stream with bufSize := 40 } }
    let nomem := { idle with env := { idle.env with ans := { answers with alloc := .nomem } } }
    let busy := { idle with pool := { idle.pool.setInFlight 3 1 with r := [], w := [0, 1, 2, 3] } }
    s.hph ≠ .sbLine ∧ s.hph ≠ .sbCommit ∧ s.stream.eng = .running ∧ 0x2000 % 4 = 0 ∧ 16 % 4 = 0 ∧
    selectForEncode s.pool = some 0 ∧ s.stream.bpp = some .two ∧ ¬ 32 ≤ (4 - 1) * (4 * 2) + maxOff 0 (4 * 2) ∧
    ¬ (s.pool.buf 0).size ≠ s.stream.bufSize ∧ (idle.pool.buf 0).size ≠ idle.stream.bufSize ∧
    (idle.pool.buf 0).inFlight = 0 ∧ idle.env.ans.alloc = .ok ∧ nomem.env.ans.alloc = .nomem ∧
    selectForEncode busy.pool = some 3 ∧ (busy.pool.buf 3).inFlight ≠ 0 ∧
    (busy.pool.buf 3).size ≠ busy.stream.bufSize := by decide +kernel

/-- A SUBMIT of two lines of eight pixels that has begun on buffer 0. -/
def encoding : State :=
  { running 16 .one with
    hph := .sbLine, status := { base.status with busy := true }
    sub := { sb := true, h := 0, y := 0, src := 0x1000, w := 8, hgt := 2, pitch := 0, bpp := .one } }

theorem witness_SubmitLineStep :
    encoding.hph = .sbLine ∧ Admitted (bounded encoding).env (0x1000 + 0 * 0) (4 * 8) :=
  ⟨rfl, l8_admitted _⟩

theorem witness_SubmitCommitStep : { encoding with hph := .sbCommit }.hph = .sbCommit := rfl

theorem witness_WorkerWaitStep :
    (running 8 .one).worker.wph = .wait ∧ (running 8 .one).stream.enabled = true ∧
    0 < (running 8 .one).stream.credits ∧ { (running 8 .one).stream with credits := 0 }.credits = 0 ∧
    (fatal (running 8 .one)).stream.enabled = false := by decide +kernel

theorem witness_WorkerSelectStep :
    let s := { running 8 .one with worker := { wph := .select, cur := 0, needZlp := false, retries := 0 } }
    s.worker.wph = .select ∧ s.stream.enabled = true ∧ selectForTransmit s.pool = some 3 ∧
    (fatal s).stream.enabled = false := by decide +kernel

theorem witness_SubmissionAccepted :
    sending.env.ans.submit = .ok ∧ sending.worker.wph = .subMain ∧
    (after (workerStep sending)).env.ans.submit = .ok ∧ (after (workerStep sending)).worker.wph = .subZlp := by
  decide +kernel

/-- SubmissionFailed: a retry left, none left, an error; MAIN and companion; to 0 and above it. -/
theorem witness_SubmissionFailed :
    let s := { sending with env := { sending.env with ans := { answers with submit := .nomem } } }
    let tired := { s with worker := { s.worker with retries := 1 } }
    let zlp := after (workerStep sending)
    let failed := { zlp with env := { zlp.env with ans := { answers with submit := .error } } }
    s.env.ans.submit = .nomem ∧ s.worker.wph = .subMain ∧ s.worker.retries < s.env.par.retryMax ∧
    tired.env.par.retryMax ≤ tired.worker.retries ∧ failed.env.ans.submit = .error ∧
    failed.worker.wph = .subZlp ∧ (s.pool.buf 3).inFlight ≤ 2 ∧ 1 < (failed.pool.buf 3).inFlight := by
  decide +kernel

theorem witness_FatalAction : (running 8 .one).stream.eng = .running ∧ base.stream.eng ≠ .running := by
  decide +kernel

theorem witness_WorkerReachesOff :
    let s := fatal sending
    s.stream.enabled = false ∧ s.worker.wph ≠ .off ∧ completes (workerStep s) = true := by decide +kernel

theorem witness_AnyTransferMayComplete :
    base.bus.outs = [] ∧ sent.bus.outs ≠ [] ∧
    { id := 1, h := 3, kind := .zlp, len := 0, rs := false } ∈ sent.bus.outs ∧
    (drainCancel sent).stream.cancelReq = true := by decide +kernel

theorem witness_CompletionEffects :
    XferStatus.error ≠ .halt ∧ (sent.pool.buf 3).inFlight = 2 ∧ ((busStep sent).pool.buf 3).inFlight ≤ 1 := by
  decide +kernel

theorem witness_HaltHandling :
    let x : Transfer := { id := 0, h := 3, kind := .main, len := 8, rs := false }
    x.rs = false ∧ { x with rs := true }.rs = true ∧ { answers with clear := .fail }.clear = .fail ∧
    answers.clear = .ok ∧ { answers with submit := .error }.submit ≠ .ok ∧ answers.submit = .ok := by decide

theorem witness_DrainSteps :
    let s := fatal (running 8 .one)
    let off := { s with worker := Worker.reset }
    let waiting := drainStep off
    let loaded := { waiting with bus := sent.bus }
    base.stream.dph = .none ∧ s.stream.dph = .join ∧ s.worker.wph ≠ .off ∧ off.worker.wph = .off ∧
    waiting.stream.dph = .waitXfers ∧ loaded.bus.outs ≠ [] ∧ (drainStep loaded).stream.dph = .cancelling ∧
    (drainStep loaded).bus.outs ≠ [] ∧ waiting.bus.outs = [] ∧
    { waiting.sub with sb := true }.sb = true ∧ waiting.sub.sb = false := by decide +kernel

theorem witness_DrainFinish :
    let s := { running 8 .one with stream := { (running 8 .one).stream with dph := .cancelling } }
    s.stream.dph = .cancelling ∧ s.bus.outs = [] ∧ s.sub.sb = false ∧ s.hph ≠ .disWait ∧
    { s with hph := .disWait }.hph = .disWait := by decide +kernel

theorem witness_ResetTurn :
    let s := turn .reset base
    (nextTurn s.env).who = .reset ∧ s.stream.eng = .idle ∧ s.bus.outs = [] ∧ s.worker.wph = .off ∧
    s.stream.dph = .none ∧ s.sub.sb = false ∧ s.hph ≠ .disWait ∧
    (turn .reset (running 8 .one)).stream.eng = .running := by decide +kernel

/-- The running stream meets the invariant. -/
theorem inv_running : Inv (running 8 .one) where
  pool := by constructor <;> decide +kernel
  engine := by constructor <;> decide +kernel
  transfers := by constructor <;> decide +kernel
  command := by constructor <;> decide +kernel
  params := by decide +kernel
  host_memory := by decide +kernel

/-- The sending stream meets it, with its Worker's turn next. -/
theorem inv_sending : Inv (turn .worker sending) where
  pool := by constructor <;> decide +kernel
  engine := by constructor <;> decide +kernel
  transfers := by constructor <;> decide +kernel
  command := by constructor <;> decide +kernel
  params := by decide +kernel
  host_memory := by decide +kernel

/-- Its history tells what its buffers hold. -/
theorem history_sending : HistoryTellsBuffers (turn .worker sending) := by
  intro _ h
  refine ⟨by revert h; decide +kernel, fun off => ?_⟩
  have hd : (((turn .worker sending).pool.buf h).data) = [] := by revert h; decide +kernel
  have hb : (((turn .worker sending).pool.buf h).born) = 0 := by revert h; decide +kernel
  rw [hd, hb]
  rfl

theorem witness_StepKeepsInvariant :
    Inv (turn .worker sending) ∧ ∃ t, step (turn .worker sending) = .next t := ⟨inv_sending, ⟨_, rfl⟩⟩

theorem witness_StepKeepsHistory :
    HistoryTellsBuffers (turn .worker sending) ∧ HistoryNumbersTransfers (turn .worker sending) ∧
    ∃ t, step (turn .worker sending) = .next t :=
  ⟨history_sending, ⟨by decide +kernel, by decide +kernel⟩, ⟨_, rfl⟩⟩

theorem witness_StepAlwaysAnswers :
    Inv (turn .worker sending) ∧ (turn .worker sending).env.absent = [] ∧
    (nextTurn (turn .worker sending).env).who ≠ .reset := ⟨inv_sending, by decide +kernel, by decide +kernel⟩

/-- EngineTransitions: a step that makes one of the transitions, fatal from Running. -/
theorem witness_EngineTransitions :
    let s := withTurn { who := .worker, ans := { answers with submit := .error } } sending
    completes (step s) = true ∧ (after (step s)).stream.eng = .draining ∧ Inv (turn .worker sending) :=
  ⟨by decide +kernel, by decide +kernel, inv_sending⟩

/-- StatusBitsChangeByRule: a bit that is set, one that is cleared, and CODE and BUSY changed. -/
theorem witness_StatusBitsChangeByRule :
    let s := withTurn { who := .bus, ans := { answers with status := .error } } sent
    let u := turn .host { started 0 0 0 0 (after (step s)) with latch := { cmd := 0x30, arg := #v[0, 0, 0, 0] } }
    completes (step s) = true ∧ (after (step s)).status.xferErr = true ∧ s.status.xferErr = false ∧
    completes (step u) = true ∧ u.status.xferErr = true ∧ (after (step u)).status.xferErr = false ∧
    u.status.busy = true ∧ (after (step u)).status.busy = false := by decide +kernel

theorem witness_HistoryOnlyGrows :
    completes (step (turn .worker sending)) = true ∧ (nextTurn (turn .worker sending).env).who ≠ .reset ∧
    (after (step (turn .worker sending))).bus.nextId ≠ sending.bus.nextId := by decide +kernel

/-- WireBytes: `sent` has a MAIN and a companion; transfer 0 reads at position 1; byte 4 is written once before its
completion, byte 5 is not. -/
theorem witness_WireBytes :
    let es : List Event := [.alloc .ok, .submitXfer 0 3 .main 8, .bufWrite 3 4 0xE2, .complete 0 .ok]
    HistoryNumbersTransfers sent ∧ .submitXfer 0 3 .main 8 ∈ sent.events ∧ .submitXfer 1 3 .zlp 0 ∈ sent.events ∧
    (es[1]? = some (.submitXfer 0 3 .main 8) ∧ startsReading 0 (.submitXfer 0 3 .main 8) = true) ∧
    (∀ e ∈ es.drop 2, startsReading 0 e = false) ∧ es[2]? = some (.bufWrite 3 4 0xE2) ∧
    (∀ x, ∀ e ∈ es, e ≠ .bufWrite 3 5 x) := by
  refine ⟨⟨by decide +kernel, by decide +kernel⟩, by decide +kernel, by decide +kernel, by decide, by decide,
    by decide, ?_⟩
  intro x e he h
  subst h
  simp at he

/-- A transfer carries its own buffer's bytes and its companion none: BUFWRITEs before the submission (R93, R88). -/
theorem test_payload :
    let s := { base with events := [.alloc .ok, .bufWrite 3 0 0x11, .bufWrite 2 0 0x22, .bufWrite 3 1 0x33,
      .submitXfer 0 3 .main 2, .submitXfer 1 3 .zlp 0] }
    payload s 0 = [0x11, 0x33] ∧ payload s 1 = [] := by decide +kernel

theorem witness_AcceptedTransferCarriesBuffer :
    Inv (turn .worker sending) ∧ HistoryTellsBuffers (turn .worker sending) ∧
    (turn .worker sending).worker.wph = .subMain ∧ (turn .worker sending).env.ans.submit = .ok ∧
    (∃ t, workerStep (turn .worker sending) = .next t) ∧ 7 < ((turn .worker sending).pool.buf 3).size :=
  ⟨inv_sending, history_sending, by decide +kernel, by decide +kernel, ⟨_, rfl⟩, by decide +kernel⟩

/-! Runs under a schedule: a DISABLE that takes a running stream down, and a SUBMIT of two lines. -/

/-- DISABLE has just started on the running stream. -/
def disabling : State :=
  { running 8 .one with
    hph := .run, status := { base.status with busy := true }, latch := { cmd := 0x22, arg := #v[0, 0, 0, 0] } }

/-- Host, Worker, Drain, Drain, and the Host agent from then on. -/
def schedule (k : Nat) : Turn :=
  match k with
  | 1 => { who := .worker, ans := answers }
  | 2 => { who := .drain, ans := answers }
  | 3 => { who := .drain, ans := answers }
  | _ => { who := .host, ans := answers }

/-- The run from `s` under it. -/
def runFrom (s : State) : Nat → State
  | 0 => s
  | k + 1 => after (step (withTurn (schedule k) (runFrom s k)))

/-- A turn that completes is a step of the run. -/
theorem runFrom_step {s : State} {k : Nat} (h : completes (step (withTurn (schedule k) (runFrom s k))) = true) :
    step (withTurn (schedule k) (runFrom s k)) = .next (runFrom s (k + 1)) := by
  show _ = Host.Outcome.next (after _)
  revert h
  cases step (withTurn (schedule k) (runFrom s k)) <;> simp [completes, after]

/-- From the fourth step on, once the Host is idle, its turn changes nothing but the environment. -/
theorem runFrom_idle {s : State} {k : Nat} (hk : 4 ≤ k) (h : (runFrom s k).hph = .idle) :
    step (withTurn (schedule k) (runFrom s k)) = .next (runFrom s (k + 1)) ∧
    runFrom s (k + 1) = beginTurn (withTurn { who := .host, ans := answers } (runFrom s k)) := by
  have e : schedule k = { who := .host, ans := answers } := by
    unfold schedule
    split <;> first | omega | rfl
  have n : step (withTurn (schedule k) (runFrom s k))
      = .next (beginTurn (withTurn { who := .host, ans := answers } (runFrom s k))) := by
    rw [e]
    show hostStep (beginTurn (withTurn { who := .host, ans := answers } (runFrom s k))) = _
    unfold hostStep
    rw [show (beginTurn (withTurn { who := .host, ans := answers } (runFrom s k))).hph = .idle from h]
  have c : completes (step (withTurn (schedule k) (runFrom s k))) = true := by rw [n]; rfl
  exact ⟨runFrom_step c, Host.Outcome.next.inj ((runFrom_step c).symm.trans n)⟩

/-- What the run holds once the Host is idle, it keeps. -/
theorem runFrom_rest {s : State} {k : Nat} (hk : 4 ≤ k) (h : (runFrom s k).hph = .idle) (n : Nat) :
    (runFrom s (k + n)).hph = .idle ∧ (runFrom s (k + n)).worker = (runFrom s k).worker ∧
    (runFrom s (k + n)).stream = (runFrom s k).stream ∧ (runFrom s (k + n)).bus = (runFrom s k).bus := by
  induction n with
  | zero => exact ⟨h, rfl, rfl, rfl⟩
  | succ n ih =>
    rw [← Nat.add_assoc, (runFrom_idle (by omega) ih.1).2]
    exact ih

def disableRun : Nat → State := runFrom disabling

/-- From the fourth step on the stream is down and every turn is a step. -/
theorem disableRun_rest (k : Nat) :
    (disableRun (k + 4)).worker.wph = .off ∧ (disableRun (k + 4)).stream.dph = .none ∧
    (disableRun (k + 4)).bus.outs = [] ∧
    step (withTurn (schedule (k + 4)) (disableRun (k + 4))) = .next (disableRun (k + 5)) := by
  have h : (disableRun 4).hph = .idle ∧ (disableRun 4).worker.wph = .off ∧
      (disableRun 4).stream.dph = .none ∧ (disableRun 4).bus.outs = [] := by decide +kernel
  obtain ⟨a, b, c, d⟩ := runFrom_rest (s := disabling) (Nat.le_refl 4) h.1 k
  rw [Nat.add_comm 4 k] at a b c d
  refine ⟨?_, ?_, ?_, (runFrom_idle (by omega) a).1⟩
  · exact (congrArg Worker.wph b).trans h.2.1
  · exact (congrArg Stream.dph c).trans h.2.2.1
  · exact (congrArg BusPort.outs d).trans h.2.2.2

theorem disableRun_outs (k : Nat) : (disableRun k).bus.outs = [] := by
  match k with
  | 0 => decide +kernel
  | 1 => decide +kernel
  | 2 => decide +kernel
  | 3 => decide +kernel
  | k + 4 => exact (disableRun_rest k).2.2.1

theorem witness_DisableTerminates :
    IsRun schedule disableRun ∧ Fair schedule disableRun ∧ (∀ k, (schedule k).who ≠ .reset) ∧ Inv (disableRun 0) ∧
    (disableRun 0).hph = .run ∧ decode (disableRun 0).latch.cmd = .ok .disable := by
  refine ⟨?_, ⟨?_, ?_, ?_, ?_⟩, ?_, ?_, by decide +kernel, by decide +kernel⟩
  · intro k
    match k with
    | 0 => rfl
    | 1 => rfl
    | 2 => rfl
    | 3 => rfl
    | k + 4 => exact (disableRun_rest k).2.2.2
  · intro k _
    exact ⟨k + 4, by omega, rfl⟩
  · intro k h
    have := h (k + 4) (by omega)
    simp [workerEnabled, (disableRun_rest k).1] at this
  · intro k h
    have := h (k + 4) (by omega)
    simp [drainEnabled, (disableRun_rest k).2.1] at this
  · intro k t ht
    rw [disableRun_outs] at ht
    cases ht
  · intro k
    unfold schedule
    split <;> decide
  · exact {
      pool := by constructor <;> decide +kernel
      engine := by constructor <;> decide +kernel
      transfers := by constructor <;> decide +kernel
      command := by constructor <;> decide +kernel
      params := by decide +kernel
      host_memory := by decide +kernel }

/-- SubmitTakesLineSteps: two lines with no step between, and a run with the Worker's and the Drain agent's turns
between the lines. -/
theorem witness_SubmitTakesLineSteps :
    (encoding.hph = .sbLine ∧ encoding.sub.y + 2 = encoding.sub.hgt ∧ 0 < 2 ∧ encoding.env.absent = []) ∧
    IsRun schedule (runFrom encoding) ∧ Inv (runFrom encoding 0) ∧ (runFrom encoding 0).hph = .sbLine ∧
    (runFrom encoding 0).sub.y + 2 = (runFrom encoding 0).sub.hgt ∧ hostTurns schedule 4 ≤ 2 ∧
    (runFrom encoding 2).worker.wph ≠ encoding.worker.wph ∧
    hostTurns schedule 5 = 2 ∧ (schedule 5).who = .host := by
  refine ⟨by decide +kernel, ?_, ?_, by decide +kernel, by decide +kernel, by decide, by decide +kernel,
    by decide, by decide⟩
  · intro k
    match k with
    | 0 => exact runFrom_step (by decide +kernel)
    | 1 => exact runFrom_step (by decide +kernel)
    | 2 => exact runFrom_step (by decide +kernel)
    | 3 => exact runFrom_step (by decide +kernel)
    | 4 => exact runFrom_step (by decide +kernel)
    | 5 => exact runFrom_step (by decide +kernel)
    | k + 6 =>
      have h : (runFrom encoding 6).hph = .idle := by decide +kernel
      have := (runFrom_rest (by omega) h k).1
      rw [Nat.add_comm 6 k] at this
      exact (runFrom_idle (by omega) this).1
  · exact {
      pool := by constructor <;> decide +kernel
      engine := by constructor <;> decide +kernel
      transfers := by constructor <;> decide +kernel
      command := by constructor <;> decide +kernel
      params := by decide +kernel
      host_memory := by decide +kernel }

/-- InFlightAboveOneNeedsCompanion: the Worker chooses a buffer of 8 bytes, MAIN and companion counted. -/
theorem witness_InFlightAboveOneNeedsCompanion :
    let s := turn .worker { running 8 .one with
      stream := { (running 8 .one).stream with credits := 2 }
      worker := { wph := .select, cur := 0, needZlp := false, retries := 0 } }
    let u := after (step s)
    Inv s ∧ s.pool.nb = 4 ∧ (∀ h, (s.pool.buf h).inFlight = 0) ∧ IsFiniteRun s [u] ∧
    (∀ v ∈ [s, u], v.pool.nb = 4 ∧ ∀ h k,
      (v.pool.buf h).size % v.env.par.mps = (v.pool.buf k).size % v.env.par.mps) ∧
    2 ≤ (u.pool.buf 3).inFlight := by
  refine ⟨{
      pool := by constructor <;> decide +kernel
      engine := by constructor <;> decide +kernel
      transfers := by constructor <;> decide +kernel
      command := by constructor <;> decide +kernel
      params := by decide +kernel
      host_memory := by decide +kernel }, by decide +kernel, by decide +kernel, ⟨rfl, trivial⟩,
    by decide +kernel, by decide +kernel⟩

end Sys2Proof.Tests
end

section
/-!
What holds of the decoder, of host memory and of each agent's step, and the obligations of the scope
(R18, R19, R34, R57, R59, R81, R82, R96, R114, R285) settled from it.
-/

namespace Sys2Proof

/-! ### The decoder on encoded commands -/

/-- The words of format H, handle by handle (R112, R113). -/
theorem decode_encodeH : ∀ h : Fin 4,
    decode (encodeH 0x01 h) = .ok (.pack332 h) ∧ decode (encodeH 0x02 h) = .ok (.pack565 h) ∧
    decode (encodeH 0x03 h) = .ok (.pack888 h) := by decide

/-- Decoding gives back a well-formed command from its word (R111-R114). -/
theorem decode_encode {i : Instr} (w : i.wellFormed = true) : decode (encode i) = .ok i := by
  cases i with
  | pack332 h => exact (decode_encodeH ⟨h, of_decide_eq_true w⟩).1
  | pack565 h => exact (decode_encodeH ⟨h, of_decide_eq_true w⟩).2.1
  | pack888 h => exact (decode_encodeH ⟨h, of_decide_eq_true w⟩).2.2
  | solve | negotiate | bwbpp | configure | enable | disable | submit | clrsts => decide

end Sys2Proof

namespace Sys2Proof.Machine

/-! ### Whose step a step is -/

/-- A step is the step of the agent whose turn it is, in the state whose turn has begun (R18, R19). -/
theorem step_of_who {s : State} {a : Agent} (h : (nextTurn s.env).who = a) :
    step s = agentStep a (beginTurn s) := by
  rw [← h]; rfl

theorem hostStep_of_decode {s : State} {i : Instr} (h : s.hph = .run) (hi : decode s.latch.cmd = .ok i) :
    hostStep s = exec i s := by
  simp [hostStep, runCommand, h, hi]

theorem hostStep_of_submitting {s : State} (h : s.hph = .sbLine ∨ s.hph = .sbCommit) :
    hostStep s = exec .submit s := by
  rcases h with h | h <;> simp [hostStep, h]

theorem hostStep_of_quiet {s : State} (h : s.hph = .idle ∨ s.hph = .disWait) : hostStep s = .next s := by
  rcases h with h | h <;> simp [hostStep, h]

/-- Placing an encoded command starts that word and gives the Host agent the next turn
(notes/assumptions/2.md). -/
theorem withFetchWord_encode (s : State) (i : Instr) :
    s.withFetchWord 32 (encode i).toNat = placeCommand (encode i) s := by
  rw [State.withFetchWord, Nat.mod_eq_of_lt (encode i).isLt, BitVec.ofNat_toNat, BitVec.setWidth_eq]

/-- The step after a command was placed is the command's own (R34, R114). -/
theorem step_placeCommand {i : Instr} (w : i.wellFormed = true) (s : State) :
    step (placeCommand (encode i) s) = exec i (beginTurn (placeCommand (encode i) s)) := by
  have host : step (placeCommand (encode i) s) = hostStep (beginTurn (placeCommand (encode i) s)) :=
    step_of_who rfl
  exact host.trans (hostStep_of_decode rfl (decode_encode w))

/-- Settles O4: the step is `agentStep` of the agent whose turn it is, and the Host's is read off its phase. -/
theorem stepRunsDecodedCommand : Obligations.StepRunsDecodedCommand := by
  unfold Obligations.StepRunsDecodedCommand
  refine ⟨fun s => ?_, fun _ => rfl, fun s i who run hi => ?_, fun s who h => ?_, fun s who h => ?_, fun s i w => ?_⟩
  · cases who : (nextTurn s.env).who <;> exact step_of_who who
  · exact (step_of_who who).trans (hostStep_of_decode run hi)
  · exact (step_of_who who).trans (hostStep_of_submitting h)
  · exact (step_of_who who).trans (hostStep_of_quiet h)
  · rw [withFetchWord_encode]
    exact ⟨step_placeCommand w s, rfl, rfl, rfl, rfl, rfl, rfl, rfl, rfl⟩

/-! ### Host memory -/

/-- A source pixel is little-endian (R14, R82). -/
theorem hostPixel_toNat (e : Env) (a : Nat) :
    (hostPixel e a).toNat = (hostRead e a).toNat + 2 ^ 8 * (hostRead e (a + 1)).toNat
      + 2 ^ 16 * (hostRead e (a + 2)).toNat + 2 ^ 24 * (hostRead e (a + 3)).toNat := by
  have h0 := (hostRead e a).isLt
  have h1 := (hostRead e (a + 1)).isLt
  have h2 := (hostRead e (a + 2)).isLt
  simp only [hostPixel, BitVec.toNat_append]
  rw [← Nat.shiftLeft_add_eq_or_of_lt h2, ← Nat.shiftLeft_add_eq_or_of_lt h1, ← Nat.shiftLeft_add_eq_or_of_lt h0]
  simp only [Nat.shiftLeft_eq]
  omega

/-- A byte not stored to during the running command reads as it stands (R81). -/
theorem hostRead_of_unraced {e : Env} {a : Nat} (h : ∀ o ∈ e.hmOld, o.1 ≠ a) :
    hostRead e a = hostValue e a (Memory.get e.hm a) := by
  have none_earlier : (e.hmOld.filter fun o => o.1 == a) = [] := by
    simpa [List.filter_eq_nil_iff] using h
  simp [hostRead, none_earlier]

/-- A byte stored to once during the running command reads as it stands or as it was (R81, I6). -/
theorem hostRead_of_racedOnce {e : Env} {a : Nat} {v : Option Byte} {olds : List (Nat × Option Byte)}
    (he : e.hmOld = (a, v) :: olds) (h : ∀ o ∈ olds, o.1 ≠ a) :
    hostRead e a = hostValue e a (Memory.get e.hm a) ∨ hostRead e a = hostValue e a v := by
  have one_earlier : (e.hmOld.filter fun o => o.1 == a) = [(a, v)] := by
    simpa [he, List.filter_eq_nil_iff] using h
  rcases Nat.mod_two_eq_zero_or_one (Config.racePick e.tick a) with pick | pick
  · exact .inl (by simp [hostRead, one_earlier, pick])
  · exact .inr (by simp [hostRead, one_earlier, pick])

/-- A store while a command runs leaves it the choice of the byte stored and the byte before (R81, I6). -/
theorem hostRead_hostStore_busy {s : State} {a : Nat} {old : Byte} (v : Byte) (busy : s.status.busy = true)
    (hold : Memory.get s.env.hm a = some old) (h : ∀ o ∈ s.env.hmOld, o.1 ≠ a) :
    hostRead (hostStore a v s).env a = v ∨ hostRead (hostStore a v s).env a = old := by
  have he : (hostStore a v s).env.hmOld = (a, some old) :: s.env.hmOld := by simp [hostStore, busy, hold]
  have hv : Memory.get (hostStore a v s).env.hm a = some v := Memory.get_set_self ..
  simpa [hv, hostValue] using hostRead_of_racedOnce he h

/-- Settles O17: the pixel by its four bytes, the stores by the laws of byte memories. -/
theorem hostMemoryReads : Obligations.HostMemoryReads := by
  unfold Obligations.HostMemoryReads
  refine ⟨hostPixel_toNat, fun e a v hv h => ?_, fun s a v => ⟨rfl, Memory.get_set_self .., ?_, ?_, ?_, ?_⟩⟩
  · rw [hostRead_of_unraced h, hv]; rfl
  · exact fun x hx => Memory.get_set_of_ne hx ..
  · exact fun wf => Memory.wf_set wf a v
  · exact fun idle => by simp [hostStore, idle]
  · exact fun old busy hold h => hostRead_hostStore_busy v busy hold h

/-! ### What every step but a reset keeps -/

/-- `t` is later than `s` with no reset and no transfer numbered between: the open parameters (R9) and the
numbering (R285) are as they were, and the event history has only grown (R59, R96). -/
structure OnlyAppends (s t : State) : Prop where
  par : t.env.par = s.env.par
  events : s.events <+: t.events
  nextId : t.bus.nextId = s.bus.nextId

theorem OnlyAppends.refl (s : State) : OnlyAppends s s := ⟨rfl, by simp, rfl⟩

theorem OnlyAppends.trans {s t u : State} (h : OnlyAppends s t) (k : OnlyAppends t u) : OnlyAppends s u :=
  ⟨k.par.trans h.par, h.events.trans k.events, k.nextId.trans h.nextId⟩

theorem finish_onlyAppends (c : Code) (s : State) : OnlyAppends s (finish c s) := ⟨rfl, by simp, rfl⟩

theorem fatal_onlyAppends (s : State) : OnlyAppends s (fatal s) := ⟨rfl, by simp, rfl⟩

theorem beginTurn_onlyAppends (s : State) : OnlyAppends s (beginTurn s) := ⟨rfl, by simp, rfl⟩

/-! ### The commands -/

variable {s t : State}

theorem packCommand_onlyAppends {b : Bpp} {h : Nat} (e : packCommand b h s = .next t) : OnlyAppends s t := by
  rcases packCommand_cases e with ⟨c, e, -⟩ | ⟨hh, -, e⟩ | e <;> cases e
  · exact finish_onlyAppends c s
  · exact ⟨rfl, by simp [packLine], rfl⟩

theorem execSolve_onlyAppends (e : execSolve s = .next t) : OnlyAppends s t := by
  rcases execSolve_cases e with e | ⟨best, e⟩ | e <;> cases e <;> exact ⟨rfl, by simp, rfl⟩

theorem execNegotiate_onlyAppends (e : execNegotiate s = .next t) : OnlyAppends s t := by
  rcases execNegotiate_cases e with e | e | ⟨delta, best, bpp, e⟩ <;> cases e <;> exact ⟨rfl, by simp, rfl⟩

theorem execConfigure_onlyAppends (e : execConfigure s = .next t) : OnlyAppends s t := by
  rcases execConfigure_cases e with e | e | ⟨b, -, e⟩ <;> cases e <;> exact ⟨rfl, by simp, rfl⟩

theorem execEnable_onlyAppends (e : execEnable s = .next t) : OnlyAppends s t := by
  rcases execEnable_cases e with ⟨-, e⟩ | e | e | ⟨-, -, -, -, e⟩ <;> cases e <;> exact ⟨rfl, by simp, rfl⟩

theorem execDisable_onlyAppends (e : execDisable s = .next t) : OnlyAppends s t := by
  rcases execDisable_cases e with ⟨-, e⟩ | ⟨-, e⟩ | ⟨-, e⟩ | ⟨-, -, -, e⟩ <;> cases e <;>
    exact ⟨rfl, by simp, rfl⟩

theorem submitBegin_onlyAppends (b : Handle) (bpp : Bpp) (s : State) : OnlyAppends s (submitBegin b bpp s) := by
  rcases submitBegin_cases b bpp s with ⟨-, e⟩ | ⟨-, -, -, e⟩ | ⟨-, -, -, e⟩ | ⟨-, -, e⟩ <;> rw [e] <;>
    exact ⟨rfl, by simp, rfl⟩

theorem execSubmit_onlyAppends (e : execSubmit s = .next t) : OnlyAppends s t := by
  rcases execSubmit_cases e with ⟨-, e⟩ | ⟨-, e⟩ | ⟨-, -, e⟩
  · rcases submitLine_cases e with ⟨src, e⟩ | e <;> cases e
    exact ⟨rfl, by simp [packLine], rfl⟩
  · cases e
    exact ⟨rfl, by simp, rfl⟩
  · rcases submitSelect_cases e with ⟨c, e, -⟩ | ⟨-, b, bpp, -, -, -, e⟩ | ⟨-, -, e⟩ | ⟨-, -, e⟩ <;> cases e
    · exact finish_onlyAppends c s
    · exact submitBegin_onlyAppends b bpp s

theorem exec_onlyAppends {i : Instr} (e : exec i s = .next t) : OnlyAppends s t := by
  cases i with
  | pack332 h | pack565 h | pack888 h => exact packCommand_onlyAppends e
  | solve => exact execSolve_onlyAppends e
  | negotiate => exact execNegotiate_onlyAppends e
  | bwbpp => cases e; exact ⟨rfl, by simp, rfl⟩
  | configure => exact execConfigure_onlyAppends e
  | enable => exact execEnable_onlyAppends e
  | disable => exact execDisable_onlyAppends e
  | submit => exact execSubmit_onlyAppends e
  | clrsts => cases e; exact ⟨rfl, by simp, rfl⟩

/-! ### The agents -/

theorem hostLine_onlyAppends (l : HostLine) (s : State) : OnlyAppends s (hostLine l s) := by
  rcases hostLine_cases l s with ⟨w, -, e⟩ | ⟨-, e⟩ | ⟨i, v, e⟩ | ⟨obs, e⟩ <;> rw [e] <;>
    exact ⟨rfl, by simp, rfl⟩

theorem portStep_onlyAppends (s : State) : OnlyAppends s (portStep s) := by
  rcases portStep_cases s with e | ⟨l, prog, e⟩ <;> rw [e]
  · exact .refl s
  · exact .trans (t := { s with env := { s.env with prog := prog } }) ⟨rfl, by simp, rfl⟩
      (hostLine_onlyAppends l _)

theorem hostStore_onlyAppends (a : Nat) (v : Byte) (s : State) : OnlyAppends s (hostStore a v s) :=
  ⟨rfl, by simp, rfl⟩

theorem hostStep_onlyAppends (e : hostStep s = .next t) : OnlyAppends s t := by
  rcases hostStep_cases e with ⟨-, e⟩ | ⟨-, e⟩ | ⟨-, e | e | ⟨i, -, e⟩⟩ | ⟨-, e⟩
  · cases e; exact .refl s
  · cases e; exact .refl s
  · cases e; exact finish_onlyAppends _ s
  · cases e; exact finish_onlyAppends _ s
  · exact exec_onlyAppends e
  · exact exec_onlyAppends e

theorem completeTransmit_onlyAppends (x : Transfer) (s : State) : OnlyAppends s (completeTransmit x s) := by
  rw [completeTransmit_eq]
  refine ⟨rfl, ?_, rfl⟩
  dsimp only
  split_ifs <;> simp

theorem completion_onlyAppends (x : Transfer) (st : XferStatus) (s : State) :
    OnlyAppends s (completion x st s) := by
  obtain ⟨es, xferErr, h⟩ := completion_cases x st s
  have hu : OnlyAppends s { s with
      events := s.events ++ es, status := { s.status with xferErr := xferErr } } := ⟨rfl, by simp, rfl⟩
  rcases h with e | e | ⟨-, e⟩ <;> rw [e]
  · exact hu.trans (completeTransmit_onlyAppends x _)
  · exact hu.trans ((completeTransmit_onlyAppends x _).trans (fatal_onlyAppends _))
  · exact hu.trans ⟨rfl, by simp, rfl⟩

theorem busStep_onlyAppends (s : State) : OnlyAppends s (busStep s) := by
  rcases busStep_cases s with ⟨-, e⟩ | ⟨x, -, e⟩ <;> rw [e]
  · exact .refl s
  · exact completion_onlyAppends x _ s

theorem drainFinish_onlyAppends (s : State) : OnlyAppends s (drainFinish s) := by
  unfold drainFinish
  split_ifs <;> exact ⟨rfl, by simp, rfl⟩

theorem drainStep_onlyAppends (s : State) : OnlyAppends s (drainStep s) := by
  rcases drainStep_cases s with e | ⟨-, -, e⟩ | ⟨-, -, e⟩ | ⟨-, -, -, e⟩ <;> rw [e]
  · exact .refl s
  · exact ⟨rfl, by simp, rfl⟩
  · exact ⟨rfl, by simp, rfl⟩
  · exact drainFinish_onlyAppends s

/-- A submission attempt numbers a transfer exactly when the bus accepts it (R247, R248, R53). -/
theorem submission_accepts_or_onlyAppends (k : XferKind) (n : Nat) (p : WorkerPhase) (s : State) :
    submission k n p s = accepted k n p s ∨ OnlyAppends s (submission k n p s) := by
  rcases submission_cases k n p s with ⟨-, e⟩ | ⟨-, -, e⟩ | ⟨-, -, e⟩
  · exact .inl e
  · rw [e]; exact .inr ⟨rfl, by simp, rfl⟩
  · rw [e]; exact .inr ⟨rfl, by simp, rfl⟩

/-- The Worker numbers a transfer only by an accepted submission, in one of its submission phases (R285). -/
theorem workerStep_accepts_or_onlyAppends (e : workerStep s = .next t) :
    ((s.worker.wph = .subMain ∨ s.worker.wph = .subZlp) ∧ ∃ k n p, t = accepted k n p s) ∨ OnlyAppends s t := by
  unfold workerStep at e
  cases phase : s.worker.wph <;> rw [phase] at e
  case off => cases e; exact .inr (.refl s)
  case wait =>
    cases e
    rcases workerWait_cases s with ⟨-, e⟩ | ⟨-, -, e⟩ | ⟨-, -, e⟩ <;> rw [e] <;>
      exact .inr ⟨rfl, by simp, rfl⟩
  case select =>
    rcases workerSelect_cases e with ⟨-, e⟩ | ⟨-, -, e⟩ | ⟨-, b, -, e⟩ <;> cases e <;>
      exact .inr ⟨rfl, by simp, rfl⟩
  case subMain =>
    cases e
    exact (submission_accepts_or_onlyAppends ..).imp_left fun e => ⟨.inl rfl, _, _, _, e⟩
  case subZlp =>
    cases e
    exact (submission_accepts_or_onlyAppends ..).imp_left fun e => ⟨.inr rfl, _, _, _, e⟩

/-! ### The whole step -/

/-- What a step does to parameters, history and numbering, by the agent whose turn it is (R18, R340). -/
theorem agentStep_cases {a : Agent} (e : agentStep a s = .next t) :
    OnlyAppends s t ∨
    (a = .worker ∧ (s.worker.wph = .subMain ∨ s.worker.wph = .subZlp) ∧ ∃ k n p, t = accepted k n p s) ∨
    (a = .reset ∧ t = resetBlock s) := by
  cases a with
  | port => cases e; exact .inl (portStep_onlyAppends s)
  | memory => cases e; exact .inl (hostStore_onlyAppends _ _ s)
  | host => exact .inl (hostStep_onlyAppends e)
  | worker =>
    rcases workerStep_accepts_or_onlyAppends e with h | h
    · exact .inr (.inl ⟨rfl, h⟩)
    · exact .inl h
  | bus => cases e; exact .inl (busStep_onlyAppends s)
  | drain => cases e; exact .inl (drainStep_onlyAppends s)
  | reset =>
    simp only [agentStep, resetTurn] at e
    split_ifs at e
    cases e
    exact .inr (.inr ⟨rfl, rfl⟩)

/-- Settles O56: of the steps that do not only append, one is an accepted submission and the other a reset. -/
theorem historyOnlyGrows : Obligations.HistoryOnlyGrows := by
  unfold Obligations.HistoryOnlyGrows
  intro s t e
  rcases agentStep_cases e with h | ⟨who, phase, k, n, p, rfl⟩ | ⟨who, rfl⟩
  · have h := (beginTurn_onlyAppends s).trans h
    obtain ⟨es, hes⟩ := h.events
    exact ⟨h.par, fun _ => ⟨es, hes.symm⟩, fun _ numbers => absurd h.nextId numbers⟩
  · exact ⟨rfl, fun _ => ⟨_, rfl⟩, fun _ _ => ⟨who, phase, rfl⟩⟩
  · exact ⟨rfl, fun no => absurd who no, fun no => absurd who no⟩

end Sys2Proof.Machine
end

section
/-!
What a command and each agent's step can have done, one constructor per outcome: a claim about every step is a case
split over these.
-/

namespace Sys2Proof.Machine

variable {s t : State}

/-! ### The Host agent -/

/-- What command `i` has done when it answers `t`. A SUBMIT that is encoding lines has outcomes of its own, so every
other outcome of SUBMIT says that it has just started. -/
inductive CommandResult (s : State) : Instr → State → Prop
  | finished {i : Instr} (c : Code) (fresh : i = .submit → s.hph ≠ .sbLine ∧ s.hph ≠ .sbCommit) :
      CommandResult s i (finish c s)
  | packed (b : Bpp) (h : Handle) (pass : packCheck b h s = none) :
      CommandResult s (packInstr b h) (finish .ok (setRes 0 (BitVec.ofNat 32 ((packArgs s).n * b.toNat))
        (packLine b h (packArgs s).off (packArgs s).src (packArgs s).n s)))
  | solved (best : Best) : CommandResult s .solve (finish .ok (setPllRes best s))
  | unsolved : CommandResult s .solve (finish .rejected (setSentinelRes s))
  | negotiated (delta : Int) (best : Best) (bpp : Nat) :
      CommandResult s .negotiate (finish .ok (acceptMode (argNat s 1) delta best bpp s))
  | reportedBpp (v : Word) : CommandResult s .bwbpp (finish .ok (setRes 5 v s))
  | configured (b : Bpp) (size : Nat) (v : Word) (aligned : size % 8 = 0) (fits : size ≤ s.env.par.maxBuf) :
      CommandResult s .configure (finish .ok (setRes 0 v
        { s with stream := { s.stream with bufSize := size, bpp := some b } }))
  | notAllocated : CommandResult s .enable (finish .errNomem (emit (.alloc .nomem) s))
  | enabled (running : s.stream.eng ≠ .running) (draining : s.stream.eng ≠ .draining) (bpp : s.stream.bpp ≠ none) :
      CommandResult s .enable (finish .ok (startStream s.events.length (emit (.alloc .ok) s)))
  | waits (wait : s.hph = .disWait) : CommandResult s .disable s
  | tearsDown (running : s.stream.eng = .running) : CommandResult s .disable { s with
      stream := { s.stream with enabled := false, eng := .draining, dph := .join }, hph := .disWait }
  | joins (idle : s.stream.eng ≠ .idle) (stopped : s.stream.eng ≠ .stopped) (running : s.stream.eng ≠ .running) :
      CommandResult s .disable { s with hph := .disWait }
  | begins (b : Handle) (bpp : Bpp) (fresh : s.hph ≠ .sbLine ∧ s.hph ≠ .sbCommit)
      (running : s.stream.eng = .running) (fits : ¬ (submitArgs s).overflows bpp (s.pool.buf b).size) :
      CommandResult s .submit (beginSubmit b bpp s)
  | beginsResized (b : Handle) (bpp : Bpp) (fresh : s.hph ≠ .sbLine ∧ s.hph ≠ .sbCommit)
      (running : s.stream.eng = .running) (fits : ¬ (submitArgs s).overflows bpp s.stream.bufSize)
      (idle : (s.pool.buf b).inFlight = 0) :
      CommandResult s .submit (beginSubmit b bpp (resized b s))
  | notResized (b : Handle) (fresh : s.hph ≠ .sbLine ∧ s.hph ≠ .sbCommit) (running : s.stream.eng = .running) :
      CommandResult s .submit (finish .errNomem (fatal (emit (.realloc b s.stream.bufSize .nomem) s)))
  | encodes (src : Nat) (phase : s.hph = .sbLine) : CommandResult s .submit
      { packLine s.sub.bpp s.sub.h (s.sub.y * (s.sub.w * s.sub.bpp.toNat)) src s.sub.w s with
        sub := { s.sub with y := s.sub.y + 1 }
        hph := if s.sub.y + 1 = s.sub.hgt then .sbCommit else s.hph }
  | commits (phase : s.hph = .sbCommit) : CommandResult s .submit
      (finish .ok (setRes 0 (BitVec.ofNat 32 s.sub.h)
        { s with pool := s.pool.moveTail s.sub.h .transmit, sub := { s.sub with sb := false } }))
  | clears : CommandResult s .clrsts (finish .ok (clearSticky s))

theorem packCommand_result {b : Bpp} {h : Nat} (e : packCommand b h s = .next t) :
    CommandResult s (packInstr b h) t := by
  rcases packCommand_cases e with ⟨c, e, -⟩ | ⟨hh, pass, e⟩ | e <;> cases e
  · exact .finished c (by cases b <;> nofun)
  · exact .packed b ⟨h, hh⟩ pass

theorem roundUp8_aligned (v : Nat) : roundUp8 v % 8 = 0 := Nat.mul_mod_left _ 8

theorem submitSelect_result (fresh : s.hph ≠ .sbLine ∧ s.hph ≠ .sbCommit) (e : submitSelect s = .next t) :
    CommandResult s .submit t := by
  rcases submitSelect_cases e with ⟨c, e, -⟩ | ⟨running, b, bpp, -, -, fits, e⟩ | ⟨-, -, e⟩ | ⟨-, -, e⟩ <;> cases e
  · exact .finished c fun _ => fresh
  · unfold sizeAfterResize at fits
    rcases submitBegin_cases b bpp s with ⟨size, e⟩ | ⟨size, idle, -, e⟩ | ⟨-, -, -, e⟩ | ⟨-, -, e⟩ <;> rw [e]
    · exact .begins b bpp fresh running (by simpa [size] using fits)
    · exact .beginsResized b bpp fresh running (by simpa [size, idle] using fits) idle
    · exact .notResized b fresh running
    · exact .finished .dropped fun _ => fresh

/-- Every command that answers a next state has one of the outcomes (R113-R117). -/
theorem exec_result {i : Instr} (e : exec i s = .next t) : CommandResult s i t := by
  cases i with
  | pack332 h => exact packCommand_result (b := .one) e
  | pack565 h => exact packCommand_result (b := .two) e
  | pack888 h => exact packCommand_result (b := .three) e
  | solve =>
    rcases execSolve_cases e with e | ⟨best, e⟩ | e <;> cases e
    · exact .finished _ nofun
    · exact .solved best
    · exact .unsolved
  | negotiate =>
    rcases execNegotiate_cases e with e | e | ⟨delta, best, bpp, e⟩ <;> cases e
    · exact .finished _ nofun
    · exact .finished _ nofun
    · exact .negotiated delta best bpp
  | bwbpp => cases e; exact .reportedBpp _
  | configure =>
    rcases execConfigure_cases e with e | e | ⟨b, fits, e⟩ <;> cases e
    · exact .finished _ nofun
    · exact .finished _ nofun
    · exact .configured b _ _ (roundUp8_aligned _) fits
  | enable =>
    rcases execEnable_cases e with ⟨-, e⟩ | e | e | ⟨running, draining, bpp, -, e⟩ <;> cases e
    · exact .finished _ nofun
    · exact .finished _ nofun
    · exact .notAllocated
    · exact .enabled running draining bpp
  | disable =>
    rcases execDisable_cases e with ⟨wait, e⟩ | ⟨-, e⟩ | ⟨running, e⟩ | ⟨idle, stopped, running, e⟩ <;> cases e
    · exact .waits wait
    · exact .finished _ nofun
    · exact .tearsDown running
    · exact .joins idle stopped running
  | submit =>
    rcases execSubmit_cases e with ⟨phase, e⟩ | ⟨phase, e⟩ | ⟨line, commit, e⟩
    · rcases submitLine_cases e with ⟨src, e⟩ | e <;> cases e
      exact .encodes src phase
    · cases e; exact .commits phase
    · exact submitSelect_result ⟨line, commit⟩ e
  | clrsts => cases e; exact .clears

/-- What the Host agent's step has done when it answers `t` (R34, R57, R114). -/
inductive HostResult (s : State) : State → Prop
  | stays : HostResult s s
  | rejects (c : Code) (run : s.hph = .run) : HostResult s (finish c s)
  | runs {i : Instr} {u : State} (run : s.hph = .run) (word : decode s.latch.cmd = .ok i)
      (done : CommandResult s i u) : HostResult s u
  | submits {u : State} (phase : s.hph = .sbLine ∨ s.hph = .sbCommit) (done : CommandResult s .submit u) :
      HostResult s u

theorem hostStep_result (e : hostStep s = .next t) : HostResult s t := by
  rcases hostStep_cases e with ⟨-, e⟩ | ⟨-, e⟩ | ⟨run, e | e | ⟨i, word, e⟩⟩ | ⟨phase, e⟩
  · cases e; exact .stays
  · cases e; exact .stays
  · cases e; exact .rejects _ run
  · cases e; exact .rejects _ run
  · exact .runs run word (exec_result e)
  · exact .submits phase (exec_result e)

/-! ### The Worker -/

/-- The Worker stands before the submission of kind `k` and length `n`, after whose acceptance it goes to phase `p`
(R247, R248). -/
inductive Submitting (s : State) : XferKind → Nat → WorkerPhase → Prop
  | main (phase : s.worker.wph = .subMain) :
      Submitting s .main (s.pool.buf s.worker.cur).size (if s.worker.needZlp then .subZlp else .wait)
  | zlp (phase : s.worker.wph = .subZlp) : Submitting s .zlp 0 .wait

/-- What the Worker's step has done when it answers `t` (R245-R251). -/
inductive WorkerResult (s : State) : State → Prop
  | stays : WorkerResult s s
  | exits (phase : s.worker.wph = .wait ∨ s.worker.wph = .select) (disabled : s.stream.enabled = false) :
      WorkerResult s { s with worker := { s.worker with wph := .off } }
  | takesCredit (phase : s.worker.wph = .wait) (credit : 0 < s.stream.credits) : WorkerResult s { s with
      stream := { s.stream with credits := s.stream.credits - 1 }
      worker := { s.worker with wph := .select } }
  | selects (phase : s.worker.wph = .select) (b : Handle) (chosen : selectForTransmit s.pool = some b) :
      WorkerResult s (selectBuffer b s)
  | submits {k : XferKind} {n : Nat} {p : WorkerPhase} (turn : Submitting s k n p) :
      WorkerResult s (accepted k n p s)
  | retries {k : XferKind} {n : Nat} {p : WorkerPhase} (turn : Submitting s k n p) : WorkerResult s { s with
      events := s.events ++ [.submitFail s.worker.cur k .nomem]
      worker := { s.worker with retries := s.worker.retries + 1 } }
  | givesUp {k : XferKind} {n : Nat} {p : WorkerPhase} (turn : Submitting s k n p) : WorkerResult s (fatal { s with
      events := s.events ++ [.submitFail s.worker.cur k s.env.ans.submit]
      pool := s.pool.release s.worker.cur (unsent k s.worker.needZlp)
      worker := { s.worker with wph := .off } })

theorem submission_result {k : XferKind} {n : Nat} {p : WorkerPhase} (turn : Submitting s k n p) :
    WorkerResult s (submission k n p s) := by
  rcases submission_cases k n p s with ⟨-, e⟩ | ⟨-, -, e⟩ | ⟨-, -, e⟩ <;> rw [e]
  · exact .submits turn
  · exact .retries turn
  · exact .givesUp turn

theorem workerStep_result (e : workerStep s = .next t) : WorkerResult s t := by
  unfold workerStep at e
  cases phase : s.worker.wph <;> rw [phase] at e
  case off => cases e; exact .stays
  case wait =>
    cases e
    rcases workerWait_cases s with ⟨disabled, e⟩ | ⟨-, credit, e⟩ | ⟨-, -, e⟩ <;> rw [e]
    · exact .exits (.inl phase) disabled
    · exact .takesCredit phase credit
    · exact .stays
  case select =>
    rcases workerSelect_cases e with ⟨disabled, e⟩ | ⟨-, -, e⟩ | ⟨-, b, chosen, e⟩ <;> cases e
    · exact .exits (.inr phase) disabled
    · exact .selects phase b chosen
  case subMain => cases e; exact submission_result (.main phase)
  case subZlp => cases e; exact submission_result (.zlp phase)

/-! ### The Bus -/

/-- The events a completion leaves before completeTransmit and fatal add theirs (R265, R268). -/
def Event.ofCompletion (x : Transfer) (st : XferStatus) (e : Event) : Prop :=
  e = .complete x.id st ∨ (∃ r, e = .clearHalt r) ∨ ∃ r, e = .resubmit x.id r

/-- What the Bus's step has done when it comes to `t` (R265-R268). -/
inductive BusResult (s : State) : State → Prop
  | stays : BusResult s s
  | completes (x : Transfer) (out : x ∈ s.bus.outs) (st : XferStatus) :
      BusResult s (completeTransmit x { s with
        events := s.events ++ [.complete x.id st]
        status := { s.status with xferErr := s.status.xferErr || st = .error } })
  | fails (x : Transfer) (out : x ∈ s.bus.outs) (es : List Event) (events : ∀ e ∈ es, e.ofCompletion x .halt) :
      BusResult s (fatal (completeTransmit x { s with events := s.events ++ es }))
  | resubmits (x : Transfer) (es : List Event) (events : ∀ e ∈ es, e.ofCompletion x .halt) :
      BusResult s (markResubmitted x { s with events := s.events ++ es })

theorem haltHandling_result (x : Transfer) (out : x ∈ s.bus.outs) :
    BusResult s (haltHandling x (emit (.complete x.id .halt) s)) := by
  unfold haltHandling
  split_ifs with again
  · exact .fails x out [.complete x.id .halt] (by simp [Event.ofCompletion])
  · dsimp only
    split_ifs with clear submit
    · simpa [emit] using BusResult.fails x out [.complete x.id .halt, .clearHalt s.env.ans.clear]
        (by simp [Event.ofCompletion])
    · simpa [emit] using BusResult.resubmits (s := s) x
        [.complete x.id .halt, .clearHalt s.env.ans.clear, .resubmit x.id s.env.ans.submit]
        (by simp [Event.ofCompletion])
    · simpa [emit] using BusResult.fails x out
        [.complete x.id .halt, .clearHalt s.env.ans.clear, .resubmit x.id s.env.ans.submit]
        (by simp [Event.ofCompletion])

theorem busStep_result (s : State) : BusResult s (busStep s) := by
  rcases busStep_cases s with ⟨-, e⟩ | ⟨x, out, e⟩ <;> rw [e]
  · exact .stays
  · unfold completion
    cases allowedStatus s.stream.cancelReq s.env.ans.status
    case halt => exact haltHandling_result x out
    case error => simpa [emit, setXferErr] using BusResult.completes x out .error
    case ok => simpa [emit] using BusResult.completes x out .ok
    case cancelled => simpa [emit] using BusResult.completes x out .cancelled

/-! ### The Drain agent -/

/-- What the Drain agent's step has done when it comes to `t` (R271, R276, R278). -/
inductive DrainResult (s : State) : State → Prop
  | stays : DrainResult s s
  | joins (phase : s.stream.dph = .join) (off : s.worker.wph = .off) : DrainResult s (drainJoin s)
  | cancels (phase : s.stream.dph = .waitXfers) : DrainResult s (drainCancel s)
  | frees (quiet : s.bus.outs = []) (submit : s.sub.sb = false) (wait : s.hph ≠ .disWait) :
      DrainResult s (drainFree s)
  | finishes (quiet : s.bus.outs = []) (submit : s.sub.sb = false) (wait : s.hph = .disWait) :
      DrainResult s (finish .ok (drainFree s))

theorem drainStep_result (s : State) : DrainResult s (drainStep s) := by
  rcases drainStep_cases s with e | ⟨phase, off, e⟩ | ⟨phase, -, e⟩ | ⟨-, quiet, submit, e⟩ <;> rw [e]
  · exact .stays
  · exact .joins phase off
  · exact .cancels phase
  · unfold drainFinish
    split_ifs with wait
    · exact .finishes quiet submit wait
    · exact .frees quiet submit wait

/-! ### The port and the whole step -/

/-- What the port's turn has done when it comes to `t` (R30-R34, R118). -/
inductive PortResult (s : State) : State → Prop
  | observes (prog : List HostLine) (obs : List Word) :
      PortResult s { s with env := { s.env with prog := prog, obs := obs } }
  | starts (w : Word) (prog : List HostLine) (idle : s.status.busy = false) :
      PortResult s (startCommand w { s with env := { s.env with prog := prog } })
  | drops (prog : List HostLine) (busy : s.status.busy = true) :
      PortResult s (dropCommand { s with env := { s.env with prog := prog } })
  | writes (i : Fin 4) (v : Word) (prog : List HostLine) :
      PortResult s (writeArg i v { s with env := { s.env with prog := prog } })

theorem portStep_result (s : State) : PortResult s (portStep s) := by
  rcases portStep_cases s with e | ⟨l, prog, e⟩ <;> rw [e]
  · exact .observes s.env.prog s.env.obs
  · rcases hostLine_cases l { s with env := { s.env with prog := prog } } with
      ⟨w, idle, e⟩ | ⟨busy, e⟩ | ⟨i, v, e⟩ | ⟨obs, e⟩ <;> rw [e]
    · exact .starts w prog idle
    · exact .drops prog busy
    · exact .writes i v prog
    · exact .observes prog obs

/-- What the step of agent `a` has done when it answers `t` (R18, R340). -/
inductive AgentResult (s : State) : Agent → State → Prop
  | port {u : State} (done : PortResult s u) : AgentResult s .port u
  | memory (a : Nat) (v : Byte) : AgentResult s .memory (hostStore a v s)
  | host {u : State} (done : HostResult s u) : AgentResult s .host u
  | worker {u : State} (done : WorkerResult s u) : AgentResult s .worker u
  | bus {u : State} (done : BusResult s u) : AgentResult s .bus u
  | drain {u : State} (done : DrainResult s u) : AgentResult s .drain u
  | reset : AgentResult s .reset (resetBlock s)

theorem agentStep_result {a : Agent} (e : agentStep a s = .next t) : AgentResult s a t := by
  cases a with
  | port => cases e; exact .port (portStep_result s)
  | memory => cases e; exact .memory _ _
  | host => exact .host (hostStep_result e)
  | worker => exact .worker (workerStep_result e)
  | bus => cases e; exact .bus (busStep_result s)
  | drain => cases e; exact .drain (drainStep_result s)
  | reset =>
    simp only [agentStep, resetTurn] at e
    split_ifs at e
    cases e
    exact .reset

/-- One step of the machine (R18, R19). -/
theorem step_result (e : step s = .next t) : AgentResult (beginTurn s) (nextTurn s.env).who t :=
  agentStep_result e

end Sys2Proof.Machine
end

section
/-!
The invariant of the machine (R62, R283): what it does not read, where it says the engine is, and that `finish` and
`fatal` keep it.
-/

namespace Sys2Proof.Machine

variable {s t : State}

/-! ### What the invariant does not read -/

/-- The invariant is about the pool, the stream, the bus, the Worker, the SUBMIT context, BUSY, the Host phase, the
open parameters and the form of host memory, and about nothing else. -/
theorem Inv.congr (h : Inv s) (pool : t.pool = s.pool) (stream : t.stream = s.stream) (bus : t.bus = s.bus)
    (worker : t.worker = s.worker) (sub : t.sub = s.sub) (busy : t.status.busy = s.status.busy) (hph : t.hph = s.hph)
    (par : t.env.par = s.env.par) (hm : Memory.wf t.env.hm = true) : Inv t := by
  obtain ⟨regs, ⟨busy', _, _, _, _⟩, latch, hph', stream', pll, pool', bus', worker', sub', events,
    ⟨_, _, _, _, _, _, _, _, _, par'⟩⟩ := t
  dsimp only at pool stream bus worker sub busy hph par
  subst pool stream bus worker sub busy hph par
  exact ⟨{ h.pool with }, { h.engine with }, { h.transfers with }, { h.command with }, h.params, hm⟩

theorem CommandInv.sb_false (h : CommandInv s) (line : s.hph ≠ .sbLine) (commit : s.hph ≠ .sbCommit) :
    s.sub.sb = false := by
  rw [← Bool.not_eq_true, h.sb_iff]
  exact fun e => e.elim line commit

/-- The Host may go to a phase in which it encodes no line. -/
theorem CommandInv.notEncoding (h : s.hph ≠ .sbLine ∧ s.hph ≠ .sbCommit) (sb : s.sub.sb = false)
    (busy : s.status.busy = true ↔ s.hph ≠ .idle) (wait : s.hph = .disWait → s.stream.eng = .draining) :
    CommandInv s where
  busy_iff := busy
  sb_iff := by simp [sb, h]
  sb_pool := by simp [sb]
  dis_wait := wait
  line_left := fun e => absurd e h.1
  line_fits := fun e => absurd e h.1

/-- A command that finishes having changed nothing the invariant reads keeps it, where no SUBMIT context is left
behind (R36). -/
theorem Inv.congr_finished (h : Inv s) (sb : s.sub.sb = false) (busy : t.status.busy = false) (hph : t.hph = .idle)
    (pool : t.pool = s.pool) (stream : t.stream = s.stream) (bus : t.bus = s.bus) (worker : t.worker = s.worker)
    (sub : t.sub = s.sub) (env : t.env = s.env) : Inv t := by
  have finished : Inv (finish .ok s) := ⟨{ h.pool with }, { h.engine with }, { h.transfers with },
    .notEncoding (by simp) sb (by simp) nofun, h.params, h.host_memory⟩
  exact finished.congr pool stream bus worker sub busy hph (by rw [env, finish_env]) (env ▸ h.host_memory)

theorem Inv.finish (h : Inv s) (sb : s.sub.sb = false) (c : Code) : Inv (finish c s) :=
  h.congr_finished sb rfl rfl rfl rfl rfl rfl rfl rfl

/-! ### Where the engine is -/

theorem EngineInv.four_of_running (h : EngineInv s) (running : s.stream.eng = .running) : s.pool.nb = 4 :=
  (h.running running).2

/-- A stream that is neither at rest nor running is draining (R42). -/
theorem EngineInv.draining_of (h : EngineInv s) (idle : s.stream.eng ≠ .idle) (stopped : s.stream.eng ≠ .stopped)
    (running : s.stream.eng ≠ .running) : s.stream.eng = .draining := by
  cases e : s.stream.eng
  case armed => exact absurd e h.never_armed
  case draining => rfl
  all_goals contradiction

/-- A stream that neither runs nor drains is at rest (R42). -/
theorem EngineInv.atRest_of (h : EngineInv s) (running : s.stream.eng ≠ .running)
    (draining : s.stream.eng ≠ .draining) : s.stream.eng = .idle ∨ s.stream.eng = .stopped := by
  by_contra rest
  rw [not_or] at rest
  exact draining (h.draining_of rest.1 rest.2 running)

/-- While a Worker is at work or a transfer is outstanding the pool stands and the engine is not at rest. -/
theorem EngineInv.four_of_busy (h : EngineInv s) (busy : s.worker.wph ≠ .off ∨ s.bus.outs ≠ []) :
    s.pool.nb = 4 ∧ s.stream.eng ≠ .idle ∧ s.stream.eng ≠ .stopped := by
  have rest : ¬ (s.stream.eng = .idle ∨ s.stream.eng = .stopped) := fun rest => by
    obtain ⟨-, off, -, outs, -⟩ := h.at_rest rest
    exact busy.elim (· off) (· outs)
  rw [not_or] at rest
  refine ⟨?_, rest⟩
  by_cases running : s.stream.eng = .running
  · exact (h.running running).2
  · exact (h.draining (h.draining_of rest.1 rest.2 running)).2

/-! ### `fatal` -/

/-- A running stream goes to Draining and its tear-down starts, any other stays (R262). -/
theorem EngineInv.fatal (h : EngineInv s) : EngineInv (fatal s) := by
  by_cases running : s.stream.eng = .running
  · obtain ⟨none, four⟩ := h.running running
    have cancel : s.stream.cancelReq = false := by
      rw [← Bool.not_eq_true, h.cancel_iff, none]; nofun
    have stream : (Machine.fatal s).stream = { s.stream with enabled := false, eng := .draining, dph := .join } := by
      rw [fatal_stream_running s running, if_pos none]
    constructor <;> simp only [stream, fatal_pool, fatal_bus, fatal_worker, fatal_env]
    case configured => exact h.configured
    case buf_size => exact h.buf_size
    all_goals simp [four, cancel]
  · have stream := fatal_stream_not_running s running
    constructor <;> simp only [stream, fatal_pool, fatal_bus, fatal_worker, fatal_env]
    exacts [h.enabled_iff, h.never_armed, h.at_rest, h.running, h.draining, h.joined, h.cancel_iff, h.configured,
      h.buf_size]

theorem fatal_credits (s : State) : (fatal s).stream.credits = s.stream.credits := by
  by_cases running : s.stream.eng = .running
  · rw [fatal_stream_running s running]
  · rw [fatal_stream_not_running s running]

theorem fatal_not_running (s : State) : (fatal s).stream.eng ≠ .running := by
  by_cases running : s.stream.eng = .running
  · rw [fatal_stream_running s running]; nofun
  · rwa [fatal_stream_not_running s running]

theorem fatal_draining (h : s.stream.eng = .draining) : (fatal s).stream.eng = .draining := by
  rw [fatal_stream_not_running s (by simp [h]), h]

theorem Inv.fatal (h : Inv s) : Inv (fatal s) where
  pool := { h.pool with }
  engine := h.engine.fatal
  transfers := { h.transfers with
    credit_bound := (fatal_credits s).symm ▸ h.transfers.credit_bound
    credit_exact := fun running => absurd running (fatal_not_running s) }
  command := { h.command with dis_wait := fun wait => fatal_draining (h.command.dis_wait wait) }
  params := h.params
  host_memory := h.host_memory

end Sys2Proof.Machine
end

section
/-!
The invariant under a change of the pool: an exchange of buffers, a move between queues, a packed line (R143-R146).
-/

namespace Sys2Proof.Machine

variable {s t : State}

/-! ### The pool under an exchange of buffers or a move between queues -/

/-- A buffer of legal size with its bytes in canonical form inside it (R49, R84). -/
structure BufferLegal (maxBuf : Nat) (b : Buffer) : Prop where
  size : b.size % 8 = 0 ∧ b.size ≤ maxBuf
  canonical : Memory.wf b.data = true
  inside : Memory.below b.data b.size = true

theorem Buffer.fresh_legal {maxBuf size : Nat} (h : size % 8 = 0 ∧ size ≤ maxBuf) (born : Nat) :
    BufferLegal maxBuf (Buffer.fresh size born) := ⟨h, rfl, rfl⟩

theorem PoolInv.buffer_legal (h : PoolInv s) (k : Handle) : BufferLegal s.env.par.maxBuf (s.pool.buf k) :=
  ⟨h.size_legal k, h.data_canonical k, h.data_inside k⟩

/-- The pool part, of any pool whose buffers are legal: what the queues must meet, and the buffers one by one. -/
theorem PoolInv.of_buffers (legal : ∀ k, BufferLegal t.env.par.maxBuf (t.pool.buf k))
    (nb : t.pool.nb = 0 ∨ t.pool.nb = 4) (no_pool : t.pool.nb = 0 → t.pool.r = [] ∧ t.pool.t = [] ∧ t.pool.w = [])
    (perm : t.pool.nb = 4 → t.pool.handles.Perm [0, 1, 2, 3]) (zlp : t.pool.zlpCtx = true ↔ t.pool.nb = 4) :
    PoolInv t :=
  ⟨nb, no_pool, perm, zlp, fun k => (legal k).size, fun k => (legal k).canonical, fun k => (legal k).inside⟩

/-- One buffer may be replaced by a legal one. -/
theorem PoolInv.setBuf (h : PoolInv s) {b : Handle} {buf : Buffer} (legal : BufferLegal s.env.par.maxBuf buf)
    (pool : t.pool = s.pool.setBuf b buf) (par : t.env.par = s.env.par) : PoolInv t := by
  refine .of_buffers (fun k => ?_) ?_ ?_ ?_ ?_ <;> rw [pool]
  · rw [par, buf_setBuf]
    split_ifs
    · exact legal
    · exact h.buffer_legal k
  · exact h.nb_legal
  · exact h.no_pool
  · exact h.one_queue
  · exact h.zlp_ctx

/-- The four handles may move between the queues, and in_flight may change (R50, R52). -/
theorem PoolInv.requeue (h : PoolInv s) (nb : t.pool.nb = 4) (zlp : t.pool.zlpCtx = true)
    (perm : t.pool.handles.Perm [0, 1, 2, 3]) (size : ∀ k, (t.pool.buf k).size = (s.pool.buf k).size)
    (data : ∀ k, (t.pool.buf k).data = (s.pool.buf k).data) (par : t.env.par = s.env.par) : PoolInv t := by
  refine .of_buffers (fun k => ?_) (.inr nb) (by simp [nb]) (fun _ => perm) (by simp [nb, zlp])
  obtain ⟨legal, canonical, inside⟩ := h.buffer_legal k
  exact ⟨by rwa [par, size], by rwa [data], by rwa [data, size]⟩

/-! ### The transfer part where bus, Worker and credits stay -/

/-- The transfer part reads of the pool only nb, in_flight and the queues R and W. -/
theorem TransferInv.congr_pool (h : TransferInv s) (bus : t.bus = s.bus) (worker : t.worker = s.worker)
    (stream : t.stream = s.stream) (nb : t.pool.nb = s.pool.nb)
    (inFlight : ∀ k, (t.pool.buf k).inFlight = (s.pool.buf k).inFlight)
    (r : ∀ k ∈ t.pool.r, k ∈ s.pool.r) (w : ∀ k ∈ t.pool.w, k ∈ s.pool.w) : TransferInv t where
  in_flight := by
    simpa only [inFlight, outstanding, counted, bus, worker, nb] using h.in_flight
  render_idle := fun four k hk => (inFlight k).trans (h.render_idle (nb ▸ four) k (r k hk))
  wait_busy := fun four k hk => (inFlight k).symm ▸ h.wait_busy (nb ▸ four) k (w k hk)
  credit_bound := by simpa only [mainsOut, creditHeld, bus, worker, stream] using h.credit_bound
  credit_exact := by simpa only [mainsOut, creditHeld, bus, worker, stream] using h.credit_exact
  ids_fresh := by simpa only [bus] using h.ids_fresh
  ids_distinct := by simpa only [bus] using h.ids_distinct

theorem EngineInv.congr (h : EngineInv s) (stream : t.stream = s.stream) (nb : t.pool.nb = s.pool.nb)
    (wph : t.worker.wph = s.worker.wph) (outs : t.bus.outs = s.bus.outs) (par : t.env.par = s.env.par) :
    EngineInv t := by
  obtain ⟨c1, c2, c3, c4, c5, c6, c7, c8, c9⟩ := h
  constructor <;> simpa only [stream, nb, wph, outs, par]

/-! ### Writing a line into a buffer -/

theorem xor_four (i : Nat) : i ^^^ 4 = if i % 8 < 4 then i + 4 else i - 4 := by
  have low : (i ^^^ 4) % 8 = i % 8 ^^^ 4 := Nat.xor_mod_two_pow (n := 3)
  have high : (i ^^^ 4) / 8 = i / 8 := by simpa using Nat.xor_div_two_pow (a := i) (b := 4) (n := 3)
  have flip : ∀ r < 8, r ^^^ 4 = if r < 4 then r + 4 else r - 4 := by decide
  have flip := flip (i % 8) (Nat.mod_lt i (by decide))
  split_ifs at flip ⊢ <;> omega

/-- No byte of a placement lies past `maxOff` (R145). -/
theorem xor_four_le_maxOff {base len i : Nat} (h : i < len) : base + (i ^^^ 4) ≤ maxOff base len := by
  rw [xor_four]
  unfold maxOff
  dsimp only
  split_ifs <;> omega

theorem maxOff_eq_add (base len : Nat) : maxOff base len = base + maxOff 0 len := by
  unfold maxOff
  dsimp only
  split_ifs <;> omega

/-- Every offset a line writes lies below a bound that `maxOff` is below (R144, R145). -/
theorem placement_below {base n : Nat} {stream : List Byte} (h : stream ≠ [] → maxOff base stream.length < n) :
    ∀ w ∈ placement base stream, w.1 < n := by
  intro w hw
  obtain ⟨⟨v, i⟩, hx, rfl⟩ := List.mem_map.1 hw
  have hi : i < stream.length := List.snd_lt_of_mem_zipIdx hx
  exact lt_of_le_of_lt (xor_four_le_maxOff hi) (h (List.ne_nil_of_length_pos (by omega)))

theorem packPixel_length (b : Bpp) (px : Word) : (packPixel b px).length = b.toNat := by cases b <;> rfl

theorem packedStream_length (b : Bpp) (px : List Word) : (packedStream b px).length = px.length * b.toNat := by
  simp [packedStream, List.length_flatMap, packPixel_length]

theorem sourcePixels_length (e : Env) (src n : Nat) : (sourcePixels e src n).length = n := by simp [sourcePixels]

theorem Inv.bufWrite (h : Inv s) (b : Handle) {ws : List (Nat × Byte)}
    (inside : ∀ w ∈ ws, w.1 < (s.pool.buf b).size) : Inv (bufWrite b ws s) := by
  have size : ∀ k, ((Machine.bufWrite b ws s).pool.buf k).size = (s.pool.buf k).size := fun k => by
    by_cases hk : k = b <;> simp [buf_setBuf, hk]
  have inFlight : ∀ k, ((Machine.bufWrite b ws s).pool.buf k).inFlight = (s.pool.buf k).inFlight := fun k => by
    by_cases hk : k = b <;> simp [buf_setBuf, hk]
  obtain ⟨legal, canonical, below⟩ := h.pool.buffer_legal b
  exact {
    pool := h.pool.setBuf (buf := { s.pool.buf b with data := Memory.setAll (s.pool.buf b).data ws })
      ⟨legal, Memory.wf_setAll canonical ws, Memory.below_setAll below inside⟩ rfl rfl
    engine := { h.engine with }
    transfers := h.transfers.congr_pool rfl rfl rfl rfl inFlight (fun _ => id) (fun _ => id)
    command := { h.command with line_fits := fun phase => (size s.sub.h).symm ▸ h.command.line_fits phase }
    params := h.params
    host_memory := h.host_memory }

/-- Packing n pixels keeps the invariant when their footprint lies in the buffer (R145, R146). -/
theorem Inv.packLine (h : Inv s) (bpp : Bpp) (b : Handle) (base src n : Nat)
    (fits : n * bpp.toNat ≠ 0 → maxOff base (n * bpp.toNat) < (s.pool.buf b).size) :
    Inv (packLine bpp b base src n s) := by
  have len : (packedStream bpp (sourcePixels s.env src n)).length = n * bpp.toNat := by
    rw [packedStream_length, sourcePixels_length]
  refine h.bufWrite b (placement_below fun some => ?_)
  rw [len]
  exact fits (by rwa [← len, ne_eq, List.length_eq_zero_iff])

end Sys2Proof.Machine
end

section
/-!
The invariant under the Worker's wait and select steps (R245, R246).
-/

namespace Sys2Proof.Machine

variable {s t : State}

/-! ### The engine part while the stream is up -/

/-- While the engine is not at rest it stays so under a change of credits, of the pool's queues and of the transfers,
and while the Worker takes no step out of OFF. -/
theorem EngineInv.awake (h : EngineInv s) (busy : s.worker.wph ≠ .off ∨ s.bus.outs ≠ []) (credits : Nat)
    (stream : t.stream = { s.stream with credits := credits }) (nb : t.pool.nb = s.pool.nb)
    (off : s.worker.wph = .off → t.worker.wph = .off) (par : t.env.par = s.env.par) : EngineInv t := by
  obtain ⟨-, idle, stopped⟩ := h.four_of_busy busy
  constructor <;> simp only [stream, nb, par]
  case at_rest => exact fun rest => (rest.elim idle stopped).elim
  case joined => exact fun phase => off (h.joined phase)
  exacts [h.enabled_iff, h.never_armed, h.running, h.draining, h.cancel_iff, h.configured, h.buf_size]

/-! ### The Worker -/

/-- What the Worker has counted before a submission are the transfers it leaves unsent when it fails (R52, R250). -/
theorem counted_of_submitting {k : XferKind} {n : Nat} {p : WorkerPhase} (turn : Submitting s k n p) (b : Handle) :
    counted s b = if s.worker.cur = b then unsent k s.worker.needZlp else 0 := by
  cases turn with
  | main phase => simp [counted, phase, unsent]
  | zlp phase => simp [counted, phase, unsent]

theorem Submitting.busy {k : XferKind} {n : Nat} {p : WorkerPhase} (turn : Submitting s k n p) :
    s.worker.wph ≠ .off := by
  cases turn with
  | main phase | zlp phase => rw [phase]; nofun

/-- Leaving the loop in the wait or the select step gives up the credit held (R245, R246). -/
theorem Inv.workerExits (h : Inv s) (phase : s.worker.wph = .wait ∨ s.worker.wph = .select)
    (disabled : s.stream.enabled = false) : Inv { s with worker := { s.worker with wph := .off } } where
  pool := { h.pool with }
  engine := h.engine.awake (.inl (by rcases phase with e | e <;> rw [e] <;> nofun)) s.stream.credits rfl rfl
    (fun _ => rfl) rfl
  transfers := { h.transfers with
    in_flight := fun four k => by
      rw [h.transfers.in_flight four k]
      rcases phase with e | e <;> simp [outstanding, counted, e]
    credit_bound := le_trans (by simp [mainsOut, creditHeld]) h.transfers.credit_bound
    credit_exact := fun running => by simp [h.engine.enabled_iff.2 running] at disabled }
  command := { h.command with }
  params := h.params
  host_memory := h.host_memory

/-- A credit taken is a credit held (R245). -/
theorem Inv.takesCredit (h : Inv s) (phase : s.worker.wph = .wait) (credit : 0 < s.stream.credits) :
    Inv { s with
      stream := { s.stream with credits := s.stream.credits - 1 }
      worker := { s.worker with wph := .select } } where
  pool := { h.pool with }
  engine := h.engine.awake (.inl (by rw [phase]; nofun)) (s.stream.credits - 1) rfl rfl (by simp [phase]) rfl
  transfers :=
    have held : ∀ m, s.stream.credits - 1 + m + 1 = s.stream.credits + m + creditHeld s := fun m => by
      simp only [creditHeld, phase]; omega
    { h.transfers with
      in_flight := by simpa [outstanding, counted, phase] using h.transfers.in_flight
      credit_bound := (held _).trans_le h.transfers.credit_bound
      credit_exact := fun running => (held _).trans (h.transfers.credit_exact running) }
  command := { h.command with }
  params := h.params
  host_memory := h.host_memory

theorem selectBuffer_pool (b : Handle) (s : State) : (selectBuffer b s).pool
    = (s.pool.moveTail b .wait).setInFlight b
      ((s.pool.buf b).inFlight + 1 + companions (needsCompanion s.env.par (s.pool.buf b).size)) := rfl

theorem selectBuffer_inFlight (b k : Handle) (s : State) : ((selectBuffer b s).pool.buf k).inFlight
    = (s.pool.buf k).inFlight + counted (selectBuffer b s) k := by
  rw [selectBuffer_pool, setInFlight_inFlight, moveTail_buf]
  by_cases hk : k = b
  · subst hk; simp [counted, selectBuffer, Nat.add_assoc]
  · simp [counted, selectBuffer, hk, Ne.symm hk]

/-- The buffer selected goes to the tail of W with its transfers counted (R246). -/
theorem Inv.selectBuffer (h : Inv s) (phase : s.worker.wph = .select) (b : Handle) : Inv (selectBuffer b s) := by
  have busy : s.worker.wph ≠ .off := by rw [phase]; nofun
  obtain ⟨four, -⟩ := h.engine.four_of_busy (.inl busy)
  refine ⟨?pool, ?engine, ?transfers, ?command, h.params, h.host_memory⟩
  case pool =>
    refine h.pool.requeue ?_ ?_ ?_ (fun k => ?_) (fun k => ?_) rfl <;> rw [selectBuffer_pool]
    · simpa using four
    · simpa using h.pool.zlp_ctx.2 four
    · exact moveTail_perm (h.pool.one_queue four) b .wait
    · simp
    · simp
  case engine =>
    exact h.engine.awake (.inl busy) s.stream.credits rfl (by simp [selectBuffer_pool]) (fun off => absurd off busy) rfl
  case transfers =>
    constructor
    case in_flight =>
      intro _ k
      have before := h.transfers.in_flight four k
      simp only [counted, phase, ite_self] at before
      rw [selectBuffer_inFlight, before]
      rfl
    case render_idle =>
      intro _ k hk
      rw [selectBuffer_pool, setInFlight_r, mem_moveTail_r] at hk
      obtain ⟨hr, hkb⟩ := hk.resolve_right nofun
      rw [selectBuffer_pool, setInFlight_inFlight, if_neg hkb, moveTail_buf]
      exact h.transfers.render_idle four k hr
    case wait_busy =>
      intro _ k hk
      rw [selectBuffer_pool, setInFlight_w, mem_moveTail_w] at hk
      rw [selectBuffer_pool, setInFlight_inFlight, moveTail_buf]
      rcases hk with ⟨hw, hkb⟩ | ⟨hkb, -⟩
      · rw [if_neg hkb]; exact h.transfers.wait_busy four k hw
      · rw [if_pos hkb]; omega
    case credit_bound => simpa [mainsOut, creditHeld, phase, Machine.selectBuffer] using h.transfers.credit_bound
    case credit_exact => simpa [mainsOut, creditHeld, phase, Machine.selectBuffer] using h.transfers.credit_exact
    exacts [h.transfers.ids_fresh, h.transfers.ids_distinct]
  case command =>
    refine { h.command with sb_pool := fun _ => ?_, line_fits := fun line => ?_ }
    · simpa [selectBuffer_pool] using four
    · simpa [selectBuffer_pool] using h.command.line_fits line

end Sys2Proof.Machine
end

section
/-!
The invariant under a submission, a release and a completion (R247, R248, R250, R265, R268).
-/

namespace Sys2Proof.Machine

variable {s t : State} {k : XferKind} {n : Nat} {p : WorkerPhase} {x : Transfer}

theorem outstanding_accepted (k : XferKind) (n : Nat) (p : WorkerPhase) (s : State) (b : Handle) :
    outstanding (accepted k n p s) b = outstanding s b + if s.worker.cur = b then 1 else 0 := by
  simp [outstanding, accepted, List.countP_append, List.countP_singleton]

theorem mainsOut_accepted (k : XferKind) (n : Nat) (p : WorkerPhase) (s : State) :
    mainsOut (accepted k n p s) = mainsOut s + if k = .main then 1 else 0 := by
  simp [mainsOut, accepted, List.countP_append, List.countP_singleton]

/-- A transfer accepted is one the Worker no longer counts (R52). -/
theorem counted_accepted (turn : Submitting s k n p) (b : Handle) :
    counted (accepted k n p s) b + (if s.worker.cur = b then 1 else 0) = counted s b := by
  rw [counted_of_submitting turn b]
  by_cases cur : s.worker.cur = b
  · cases turn with
    | main phase => cases zlp : s.worker.needZlp <;> simp [counted, unsent, companions, cur, zlp]
    | zlp phase => simp [counted, unsent, cur]
  · simp [counted, cur]

/-- The credit held becomes the accepted MAIN's own (R283). -/
theorem creditHeld_accepted (turn : Submitting s k n p) :
    creditHeld (accepted k n p s) + (if k = .main then 1 else 0) = creditHeld s := by
  cases turn with
  | main phase => cases zlp : s.worker.needZlp <;> simp [creditHeld, phase]
  | zlp phase => simp [creditHeld, phase]

/-- An accepted submission (R247, R248). -/
theorem Inv.accepted (h : Inv s) (turn : Submitting s k n p) : Inv (accepted k n p s) where
  pool := { h.pool with }
  engine := h.engine.awake (.inl turn.busy) s.stream.credits rfl rfl (fun off => absurd off turn.busy) rfl
  transfers := by
    have credits : s.stream.credits + mainsOut (Machine.accepted k n p s) + creditHeld (Machine.accepted k n p s)
        = s.stream.credits + mainsOut s + creditHeld s := by
      have held := creditHeld_accepted turn
      rw [mainsOut_accepted]
      omega
    constructor
    case in_flight =>
      intro four b
      have before := h.transfers.in_flight four b
      have count := counted_accepted turn b
      rw [outstanding_accepted, accepted_pool]
      omega
    case render_idle => exact h.transfers.render_idle
    case wait_busy => exact h.transfers.wait_busy
    case credit_bound => exact credits.trans_le h.transfers.credit_bound
    case credit_exact => exact fun running => credits.trans (h.transfers.credit_exact running)
    case ids_fresh =>
      intro u hu
      rcases List.mem_append.1 hu with hu | hu
      · exact Nat.lt_succ_of_lt (h.transfers.ids_fresh u hu)
      · rw [List.mem_singleton.1 hu]; exact Nat.lt_succ_self _
    case ids_distinct =>
      have fresh : s.bus.nextId ∉ s.bus.outs.map (·.id) := fun hid => by
        obtain ⟨u, hu, e⟩ := List.mem_map.1 hid
        exact absurd (h.transfers.ids_fresh u hu) (by omega)
      simpa [Machine.accepted, List.nodup_append] using ⟨h.transfers.ids_distinct, by simpa using fresh⟩
  command := { h.command with }
  params := h.params
  host_memory := h.host_memory

/-- A submission to be tried again (R250, R251). -/
theorem Inv.retries (h : Inv s) : Inv { s with worker := { s.worker with retries := s.worker.retries + 1 } } :=
  ⟨{ h.pool with }, { h.engine with }, { h.transfers with }, { h.command with }, h.params, h.host_memory⟩

/-! ### A release -/

/-- A release keeps the pool part: handles move, and sizes and bytes stay (R250, R265). -/
theorem PoolInv.release (h : PoolInv s) (four : s.pool.nb = 4) (b : Handle) (m : Nat)
    (pool : t.pool = s.pool.release b m) (par : t.env.par = s.env.par) : PoolInv t := by
  refine h.requeue ?_ ?_ ?_ (fun k => ?_) (fun k => ?_) par <;> rw [pool]
  · rw [release_nb, four]
  · rw [release_zlpCtx, h.zlp_ctx, four]
  · exact release_perm (h.one_queue four) b m
  · rw [release_size]
  · rw [release_data]

theorem CommandInv.release (h : CommandInv s) (b : Handle) (m : Nat) (pool : t.pool = s.pool.release b m)
    (busy : t.status.busy = s.status.busy) (hph : t.hph = s.hph) (sub : t.sub = s.sub)
    (eng : t.stream.eng = s.stream.eng) : CommandInv t := by
  obtain ⟨c1, c2, c3, c4, c5, c6⟩ := h
  constructor <;> simpa only [pool, busy, hph, sub, eng, release_nb, release_size]

/-- After a release the queues say of in_flight what they must (R250, R265). -/
theorem TransferInv.release (h : TransferInv s) (four : s.pool.nb = 4) (b : Handle) (m : Nat) :
    (∀ k ∈ (s.pool.release b m).r, ((s.pool.release b m).buf k).inFlight = 0) ∧
    (∀ k ∈ (s.pool.release b m).w, 0 < ((s.pool.release b m).buf k).inFlight) := by
  refine ⟨fun k hk => ?_, fun k hk => ?_⟩ <;> rw [release_inFlight]
  · rcases mem_release_r hk with ⟨hr, hkb⟩ | ⟨hkb, zero⟩ | ⟨hr, -⟩
    · rw [if_neg hkb, h.render_idle four k hr]
    · rw [if_pos hkb, zero]
    · have idle := h.render_idle four k hr
      split_ifs with hkb
      · rw [← hkb, idle, Nat.zero_sub]
      · exact idle
  · obtain ⟨hw, hkb⟩ := mem_release_w hk
    split_ifs with e
    · exact Nat.pos_of_ne_zero (hkb.resolve_left (absurd e))
    · exact h.wait_busy four k hw

/-- A submission given up on a stream that no longer runs: its transfers are counted no more, its credit is lost
(R250). -/
theorem Inv.givesUp (h : Inv s) (turn : Submitting s k n p) (running : s.stream.eng ≠ .running) :
    Inv { s with
      pool := s.pool.release s.worker.cur (unsent k s.worker.needZlp)
      worker := { s.worker with wph := .off } } := by
  obtain ⟨four, -⟩ := h.engine.four_of_busy (.inl turn.busy)
  obtain ⟨idle, busy⟩ := h.transfers.release four s.worker.cur (unsent k s.worker.needZlp)
  refine ⟨h.pool.release four _ _ rfl rfl, h.engine.awake (.inl turn.busy) s.stream.credits rfl (release_nb ..)
    (fun _ => rfl) rfl, ?_, h.command.release _ _ rfl rfl rfl rfl rfl, h.params, h.host_memory⟩
  refine { h.transfers with
    in_flight := fun _ b => ?_
    render_idle := fun _ => idle
    wait_busy := fun _ => busy
    credit_bound := le_trans (by simp [mainsOut, creditHeld]) h.transfers.credit_bound
    credit_exact := fun e => absurd e running }
  have before := h.transfers.in_flight four b
  rw [counted_of_submitting turn b] at before
  rw [release_inFlight]
  by_cases cur : b = s.worker.cur
  · subst cur
    rw [if_pos rfl] at before ⊢
    simp only [outstanding, counted, ite_self] at before ⊢
    omega
  · simpa [cur, Ne.symm cur, outstanding, counted] using before

/-! ### The Bus -/

/-- Taking an outstanding transfer off the bus takes exactly it off. -/
theorem countP_filter_ne {l : List Transfer} (nodup : l.Nodup) (out : x ∈ l) (q : Transfer → Bool) :
    (l.filter (· != x)).countP q + (if q x then 1 else 0) = l.countP q := by
  rw [← nodup.erase_eq_filter, (List.perm_cons_erase out).countP_eq, List.countP_cons]

/-- The stream after completeTransmit: a MAIN gives its credit back (R265). -/
theorem completeTransmit_stream (x : Transfer) (s : State) : (completeTransmit x s).stream
    = { s.stream with credits := s.stream.credits + if x.kind = .main then 1 else 0 } := by
  rw [completeTransmit_eq]
  dsimp only
  split_ifs <;> rfl

/-- completeTransmit of an outstanding transfer (R265). -/
theorem Inv.completeTransmit (h : Inv s) (out : x ∈ s.bus.outs) : Inv (completeTransmit x s) := by
  have some : s.bus.outs ≠ [] := List.ne_nil_of_mem out
  obtain ⟨four, -⟩ := h.engine.four_of_busy (.inr some)
  obtain ⟨idle, busy⟩ := h.transfers.release four x.h 1
  have nodup : s.bus.outs.Nodup := .of_map _ h.transfers.ids_distinct
  have stream := completeTransmit_stream x s
  have pool : (Machine.completeTransmit x s).pool = s.pool.release x.h 1 := by rw [completeTransmit_eq]
  have bus : (Machine.completeTransmit x s).bus = { s.bus with outs := s.bus.outs.filter (· != x) } := by
    rw [completeTransmit_eq]
  have worker : (Machine.completeTransmit x s).worker = s.worker := by rw [completeTransmit_eq]
  have env : (Machine.completeTransmit x s).env = s.env := by rw [completeTransmit_eq]
  have credits : (Machine.completeTransmit x s).stream.credits + mainsOut (Machine.completeTransmit x s)
      + creditHeld (Machine.completeTransmit x s) = s.stream.credits + mainsOut s + creditHeld s := by
    have mains := countP_filter_ne nodup out fun u => u.kind == .main
    simp only [stream, mainsOut, creditHeld, bus, worker, beq_iff_eq] at mains ⊢
    omega
  refine ⟨h.pool.release four _ _ pool (by rw [env]), h.engine.awake (.inr some) _ stream (by rw [pool, release_nb])
    (by rw [worker]; exact id) (by rw [env]), ?_, h.command.release _ _ pool ?_ ?_ ?_ (by rw [stream]),
    by rw [env]; exact h.params, by rw [env]; exact h.host_memory⟩
  · constructor
    case in_flight =>
      intro _ b
      have before := h.transfers.in_flight four b
      have outs := countP_filter_ne nodup out fun u => u.h == b
      simp only [pool, release_inFlight, outstanding, counted, bus, worker, beq_iff_eq] at before outs ⊢
      by_cases hb : b = x.h
      · subst hb; simp only [if_true] at outs ⊢; omega
      · simp only [hb, Ne.symm hb, if_false] at outs ⊢; omega
    case render_idle => rw [pool]; exact fun _ => idle
    case wait_busy => rw [pool]; exact fun _ => busy
    case credit_bound => rw [credits]; exact h.transfers.credit_bound
    case credit_exact => rw [credits, stream]; exact h.transfers.credit_exact
    case ids_fresh => rw [bus]; exact fun u hu => h.transfers.ids_fresh u (List.mem_of_mem_filter hu)
    case ids_distinct =>
      rw [bus]
      exact h.transfers.ids_distinct.sublist (List.filter_sublist.map _)
  all_goals rw [completeTransmit_eq]

/-- The mark of a resubmission changes no transfer's id, buffer or kind (R268). -/
theorem map_markResubmitted {α : Type} (f : Transfer → α) (same : f { x with rs := true } = f x) (l : List Transfer) :
    (l.map fun u => if u = x then { x with rs := true } else u).map f = l.map f := by
  rw [List.map_map]
  refine List.map_congr_left fun u _ => ?_
  dsimp only [Function.comp]
  split_ifs with e
  · rw [same, e]
  · rfl

theorem Inv.markResubmitted (h : Inv s) (x : Transfer) : Inv (markResubmitted x s) := by
  have outstanding_eq : ∀ b, outstanding (Machine.markResubmitted x s) b = outstanding s b := fun b => by
    have e := map_markResubmitted (x := x) (·.h) rfl s.bus.outs
    exact List.countP_map.symm.trans ((congrArg (List.countP (· == b)) e).trans List.countP_map)
  have mainsOut_eq : mainsOut (Machine.markResubmitted x s) = mainsOut s := by
    have e := map_markResubmitted (x := x) (·.kind) rfl s.bus.outs
    exact List.countP_map.symm.trans ((congrArg (List.countP (· == .main)) e).trans List.countP_map)
  have ids := map_markResubmitted (x := x) (·.id) rfl s.bus.outs
  refine ⟨{ h.pool with }, { h.engine with at_rest := fun rest => ?_ }, ?_, { h.command with }, h.params,
    h.host_memory⟩
  · obtain ⟨nb, off, dph, outs, credits⟩ := h.engine.at_rest rest
    exact ⟨nb, off, dph, by simp [Machine.markResubmitted, outs], credits⟩
  · constructor
    case in_flight => simp only [outstanding_eq]; exact h.transfers.in_flight
    case render_idle => exact h.transfers.render_idle
    case wait_busy => exact h.transfers.wait_busy
    case credit_bound => rw [mainsOut_eq]; exact h.transfers.credit_bound
    case credit_exact => rw [mainsOut_eq]; exact h.transfers.credit_exact
    case ids_fresh =>
      have fresh : ∀ i ∈ s.bus.outs.map (·.id), i < s.bus.nextId := List.forall_mem_map.2 h.transfers.ids_fresh
      rw [← ids] at fresh
      exact List.forall_mem_map.1 fresh
    case ids_distinct => exact ids.symm ▸ h.transfers.ids_distinct

end Sys2Proof.Machine
end

section
/-!
The invariant under every step: commands, agents, reset (R62, R283).
-/

namespace Sys2Proof.Machine

variable {s t : State}

/-! ### The Host agent -/

/-- A command that may only just have started finds the Host in RUN. -/
theorem CommandInv.sb_false_of_run (h : CommandInv s) (run : s.hph = .run) : s.sub.sb = false :=
  h.sb_false (by simp [run]) (by simp [run])

theorem CommandInv.busy_of_run (h : CommandInv s) (run : s.hph = .run) : s.status.busy = true :=
  h.busy_iff.2 (by simp [run])

theorem Bpp.toNat_pos (b : Bpp) : 0 < b.toNat := by cases b <;> decide

/-- What `packCheck` lets through lies in the buffer (R146). -/
theorem packCheck_none {b : Bpp} {h : Handle} (pass : packCheck b h s = none) :
    (packArgs s).n * b.toNat ≠ 0 → maxOff (packArgs s).off ((packArgs s).n * b.toNat) < (s.pool.buf h).size := by
  intro some
  unfold packCheck at pass
  dsimp only at pass
  split_ifs at pass with _ _ _ _ bound
  exact Nat.lt_of_not_le fun le => bound ⟨some, le⟩

/-- SUBMIT's context as the select step latches it (R224). -/
theorem Inv.beginSubmit (h : Inv s) (run : s.hph = .run) (running : s.stream.eng = .running) {b : Handle} {bpp : Bpp}
    (fits : ¬ (submitArgs s).overflows bpp (s.pool.buf b).size) : Inv (beginSubmit b bpp s) := by
  refine ⟨{ h.pool with }, { h.engine with }, { h.transfers with }, ?_, h.params, h.host_memory⟩
  have busy : s.status.busy = true := h.command.busy_of_run run
  have sb : (Machine.beginSubmit b bpp s).sub.sb = true := rfl
  by_cases lines : 0 < (submitArgs s).w ∧ 0 < (submitArgs s).hgt
  · have hph : (Machine.beginSubmit b bpp s).hph = .sbLine := if_pos lines
    have len : 0 < (submitArgs s).w * bpp.toNat := Nat.mul_pos lines.1 bpp.toNat_pos
    constructor
    case sb_pool => exact fun _ => h.engine.four_of_running running
    case line_left => exact fun _ => lines.2
    case line_fits => exact fun _ => ⟨len.ne', Nat.lt_of_not_le fun le => fits ⟨lines.1, lines.2, le⟩⟩
    all_goals simp [busy, sb, hph]
  · have hph : (Machine.beginSubmit b bpp s).hph = .sbCommit := if_neg lines
    constructor
    case sb_pool => exact fun _ => h.engine.four_of_running running
    all_goals simp [busy, sb, hph]

/-- A lazy resize of an idle buffer (R222). -/
theorem Inv.resized (h : Inv s) (run : s.hph = .run) {b : Handle} (idle : (s.pool.buf b).inFlight = 0) :
    Inv (resized b s) where
  pool := h.pool.setBuf (Buffer.fresh_legal h.engine.buf_size s.events.length) rfl rfl
  engine := { h.engine with }
  transfers := h.transfers.congr_pool rfl rfl rfl rfl
    (fun k => by by_cases hk : k = b <;> simp [buf_setBuf, hk, Buffer.fresh, idle]) (fun _ => id) (fun _ => id)
  command := .notEncoding (by simp [run]) (h.command.sb_false_of_run run) h.command.busy_iff h.command.dis_wait
  params := h.params
  host_memory := h.host_memory

/-- ENABLE's start of a stream that was at rest (R210). -/
theorem Inv.startStream (h : Inv s) (rest : s.stream.eng = .idle ∨ s.stream.eng = .stopped)
    (bpp : s.stream.bpp ≠ none) (born : Nat) (sb : s.sub.sb = false) (c : Code) :
    Inv (Machine.finish c (startStream born s)) := by
  obtain ⟨-, -, dph, -, -⟩ := h.engine.at_rest rest
  have fresh : ∀ k, (Pool.allocated s.stream.bufSize born).buf k = Buffer.fresh s.stream.bufSize born := fun k => by
    simp [Pool.buf, Pool.allocated]
  refine ⟨.of_buffers (fun k => ?_) (.inr rfl) nofun (fun _ => .refl _) ⟨fun _ => rfl, fun _ => rfl⟩, ?_, ?_,
    .notEncoding (by simp) sb (by simp) nofun, h.params, h.host_memory⟩
  · exact (fresh k).symm ▸ Buffer.fresh_legal h.engine.buf_size born
  · constructor
    case configured => exact fun _ => bpp
    case buf_size => exact h.engine.buf_size
    case joined => simp [Machine.startStream, dph]
    all_goals simp [Machine.startStream, dph, Pool.allocated, pNbuf]
  · constructor
    case in_flight =>
      intro _ k
      have count : counted (Machine.finish c (Machine.startStream born s)) k = 0 := ite_self 0
      simp [count, fresh, Buffer.fresh, outstanding]
    case render_idle => exact fun _ k _ => by rw [finish_pool, startStream_pool, fresh]; rfl
    all_goals simp [Machine.startStream, mainsOut, creditHeld, Pool.allocated]

/-- A line of SUBMIT (R225): it lies in the buffer, as the lines after it do. -/
theorem Inv.encodes (h : Inv s) (phase : s.hph = .sbLine) (src : Nat) : Inv
    { Machine.packLine s.sub.bpp s.sub.h (s.sub.y * (s.sub.w * s.sub.bpp.toNat)) src s.sub.w s with
      sub := { s.sub with y := s.sub.y + 1 }
      hph := if s.sub.y + 1 = s.sub.hgt then .sbCommit else s.hph } := by
  have left := h.command.line_left phase
  obtain ⟨some, bound⟩ := h.command.line_fits phase
  have before : s.sub.y * (s.sub.w * s.sub.bpp.toNat) ≤ (s.sub.hgt - 1) * (s.sub.w * s.sub.bpp.toNat) :=
    Nat.mul_le_mul_right _ (by omega)
  have line := h.packLine s.sub.bpp s.sub.h (s.sub.y * (s.sub.w * s.sub.bpp.toNat)) src s.sub.w fun _ => by
    rw [maxOff_eq_add]; omega
  have sb : s.sub.sb = true := h.command.sb_iff.2 (.inl phase)
  have busy : s.status.busy = true := h.command.busy_iff.2 (by simp [phase])
  refine ⟨{ line.pool with }, { line.engine with }, { line.transfers with }, ?_, h.params, h.host_memory⟩
  by_cases last : s.sub.y + 1 = s.sub.hgt
  · constructor <;> simp only [if_pos last]
    case sb_pool => exact line.command.sb_pool
    all_goals simp [Machine.packLine, busy, sb]
  · constructor <;> simp only [if_neg last, phase]
    case sb_pool => exact line.command.sb_pool
    case line_left => exact fun _ => by omega
    case line_fits => exact fun _ => line.command.line_fits phase
    all_goals simp [Machine.packLine, busy, sb]

/-- SUBMIT's commit moves the encoded buffer to the tail of T (R226). -/
theorem Inv.commits (h : Inv s) (phase : s.hph = .sbCommit) (v : Word) (c : Code) : Inv
    (Machine.finish c (setRes 0 v
      { s with pool := s.pool.moveTail s.sub.h .transmit, sub := { s.sub with sb := false } })) := by
  have four : s.pool.nb = 4 := h.command.sb_pool (h.command.sb_iff.2 (.inr phase))
  refine ⟨h.pool.requeue ?_ ?_ ?_ (fun k => ?_) (fun k => ?_) rfl, h.engine.congr rfl ?_ rfl rfl rfl,
    h.transfers.congr_pool rfl rfl rfl ?_ (fun k => ?_) (fun k hk => ?_) (fun k hk => ?_),
    .notEncoding (by simp) rfl (by simp) nofun, h.params, h.host_memory⟩
  · simpa using four
  · simpa using h.pool.zlp_ctx.2 four
  · exact moveTail_perm (h.pool.one_queue four) s.sub.h .transmit
  · simp
  · simp
  · simp
  · simp
  · simp
  · exact (mem_moveTail_r.1 hk).elim And.left nofun
  · exact (mem_moveTail_w.1 hk).elim And.left nofun

/-- DISABLE's first step takes a running stream to its tear-down (R215). -/
theorem Inv.tearsDown (h : Inv s) (run : s.hph = .run) (running : s.stream.eng = .running) : Inv { s with
    stream := { s.stream with enabled := false, eng := .draining, dph := .join }, hph := .disWait } := by
  obtain ⟨none, four⟩ := h.engine.running running
  have cancel : s.stream.cancelReq = false := by
    rw [← Bool.not_eq_true, h.engine.cancel_iff, none]; nofun
  refine ⟨{ h.pool with }, ?_, { h.transfers with credit_exact := nofun },
    .notEncoding (by simp) (h.command.sb_false_of_run run) (by simp [h.command.busy_of_run run]) (fun _ => rfl),
    h.params, h.host_memory⟩
  constructor
  case configured => exact h.engine.configured
  case buf_size => exact h.engine.buf_size
  all_goals simp [four, cancel]

/-- Every outcome of a command keeps the invariant: one that has just started finds the Host in RUN. -/
theorem CommandResult.keepsInv {i : Instr} (e : CommandResult s i t) (h : Inv s)
    (phase : s.hph = .run ∨ (i = .submit ∧ (s.hph = .sbLine ∨ s.hph = .sbCommit))) : Inv t := by
  have run_of (fresh : i = .submit → s.hph ≠ .sbLine ∧ s.hph ≠ .sbCommit) : s.hph = .run :=
    phase.resolve_right fun ⟨submit, busy⟩ => busy.elim (fresh submit).1 (fresh submit).2
  cases e with
  | finished c fresh => exact h.finish (h.command.sb_false_of_run (run_of fresh)) c
  | packed b k pass =>
    have run : s.hph = .run := run_of (by cases b <;> nofun)
    have line := h.packLine b k (packArgs s).off (packArgs s).src (packArgs s).n (packCheck_none pass)
    exact line.congr_finished (h.command.sb_false_of_run run) rfl rfl rfl rfl rfl rfl rfl rfl
  | solved | unsolved | negotiated | reportedBpp | notAllocated | clears =>
    apply h.congr_finished (h.command.sb_false_of_run (run_of nofun)) <;> simp
  | configured b size v aligned fits =>
    refine ⟨{ h.pool with }, { h.engine with configured := fun _ => nofun, buf_size := ⟨aligned, fits⟩ },
      { h.transfers with }, .notEncoding (by simp) ?_ (by simp) nofun, h.params, h.host_memory⟩
    exact h.command.sb_false_of_run (run_of nofun)
  | enabled running draining bpp =>
    exact Inv.startStream (h.congr (t := emit (.alloc .ok) s) rfl rfl rfl rfl rfl rfl rfl rfl h.host_memory)
      (h.engine.atRest_of running draining) bpp _ (h.command.sb_false_of_run (run_of nofun)) .ok
  | waits wait => exact h
  | tearsDown running => exact h.tearsDown (run_of nofun) running
  | joins idle stopped running =>
    have run : s.hph = .run := run_of nofun
    exact ⟨{ h.pool with }, { h.engine with }, { h.transfers with },
      .notEncoding (by simp) (h.command.sb_false_of_run run) (by simp [h.command.busy_of_run run])
        (fun _ => h.engine.draining_of idle stopped running), h.params, h.host_memory⟩
  | begins b bpp fresh running fits => exact h.beginSubmit (run_of fun _ => fresh) running fits
  | beginsResized b bpp fresh running fits idle =>
    have run : s.hph = .run := run_of fun _ => fresh
    exact (h.resized run idle).beginSubmit run running <| by
      rwa [resized_pool, buf_setBuf_self]
  | notResized b fresh running =>
    have emitted : Inv (emit (.realloc b s.stream.bufSize .nomem) s) :=
      h.congr rfl rfl rfl rfl rfl rfl rfl rfl h.host_memory
    exact emitted.fatal.finish (h.command.sb_false_of_run (run_of fun _ => fresh)) _
  | encodes src line => exact h.encodes line src
  | commits commit => exact h.commits commit _ _

theorem HostResult.keepsInv (e : HostResult s t) (h : Inv s) : Inv t := by
  cases e with
  | stays => exact h
  | rejects c run => exact h.finish (h.command.sb_false_of_run run) c
  | runs run word done => exact done.keepsInv h (.inl run)
  | submits phase done => exact done.keepsInv h (.inr ⟨rfl, phase⟩)

/-! ### The other agents -/

theorem WorkerResult.keepsInv (e : WorkerResult s t) (h : Inv s) : Inv t := by
  cases e with
  | stays => exact h
  | exits phase disabled => exact h.workerExits phase disabled
  | takesCredit phase credit => exact h.takesCredit phase credit
  | selects phase b => exact h.selectBuffer phase b
  | submits turn => exact h.accepted turn
  | retries turn => exact h.retries.congr rfl rfl rfl rfl rfl rfl rfl rfl h.host_memory
  | @givesUp k n p turn =>
    have failed : Inv (Machine.fatal { s with
        events := s.events ++ [.submitFail s.worker.cur k s.env.ans.submit] }) :=
      Inv.fatal (h.congr rfl rfl rfl rfl rfl rfl rfl rfl h.host_memory)
    have turn : Submitting (Machine.fatal { s with
        events := s.events ++ [.submitFail s.worker.cur k s.env.ans.submit] }) k n p := by
      cases turn with
      | main phase => exact .main phase
      | zlp phase => exact .zlp phase
    exact failed.givesUp turn (fatal_not_running _)

theorem BusResult.keepsInv (e : BusResult s t) (h : Inv s) : Inv t := by
  cases e with
  | stays => exact h
  | completes x out st =>
    exact Inv.completeTransmit (h.congr rfl rfl rfl rfl rfl rfl rfl rfl h.host_memory) out
  | fails x out es =>
    have told : Inv { s with events := s.events ++ es } := h.congr rfl rfl rfl rfl rfl rfl rfl rfl h.host_memory
    exact (told.completeTransmit out).fatal
  | resubmits x es =>
    have told : Inv { s with events := s.events ++ es } := h.congr rfl rfl rfl rfl rfl rfl rfl rfl h.host_memory
    exact told.markResubmitted x

/-- The tear-down has begun where the Drain agent is at work (R270). -/
theorem EngineInv.draining_of_dph (h : EngineInv s) (dph : s.stream.dph ≠ .none) : s.stream.eng = .draining := by
  have rest : ¬ (s.stream.eng = .idle ∨ s.stream.eng = .stopped) := fun rest => by
    obtain ⟨-, -, none, -⟩ := h.at_rest rest
    exact dph none
  rw [not_or] at rest
  exact h.draining_of rest.1 rest.2 fun running => dph (h.running running).1

theorem Inv.drainJoin (h : Inv s) (phase : s.stream.dph = .join) (off : s.worker.wph = .off) : Inv (drainJoin s) := by
  have draining := h.engine.draining_of_dph (by simp [phase])
  have four : s.pool.nb = 4 := (h.engine.draining draining).2
  have cancel : s.stream.cancelReq = false := by
    rw [← Bool.not_eq_true, h.engine.cancel_iff, phase]; nofun
  refine ⟨{ h.pool with }, ?_, { h.transfers with }, { h.command with }, h.params, h.host_memory⟩
  constructor
  case enabled_iff => exact h.engine.enabled_iff
  case configured => exact h.engine.configured
  case buf_size => exact h.engine.buf_size
  case joined => exact fun _ => off
  all_goals simp [draining, four, cancel]

theorem Inv.drainCancel (h : Inv s) (phase : s.stream.dph = .waitXfers) : Inv (drainCancel s) := by
  have draining := h.engine.draining_of_dph (by simp [phase])
  have four : s.pool.nb = 4 := (h.engine.draining draining).2
  refine ⟨{ h.pool with }, ?_, { h.transfers with }, { h.command with }, h.params, h.host_memory⟩
  constructor
  case enabled_iff => exact h.engine.enabled_iff
  case configured => exact h.engine.configured
  case buf_size => exact h.engine.buf_size
  case joined => exact fun _ => h.engine.joined (.inl phase)
  all_goals simp [draining, four]

/-! ### A stream at rest -/

theorem PoolInv.reset (pool : t.pool = Pool.reset) : PoolInv t := by
  have absent : ∀ k, Pool.reset.buf k = Buffer.absent := fun k => by simp [Pool.buf, Pool.reset]
  refine .of_buffers (fun k => ?_) ?_ ?_ ?_ ?_ <;> rw [pool]
  · rw [absent]
    exact ⟨⟨rfl, Nat.zero_le _⟩, rfl, rfl⟩
  all_goals simp [Pool.reset]

theorem EngineInv.atRest (rest : t.stream.eng = .idle ∨ t.stream.eng = .stopped) (enabled : t.stream.enabled = false)
    (credits : t.stream.credits = 0) (dph : t.stream.dph = .none) (cancel : t.stream.cancelReq = false)
    (nb : t.pool.nb = 0) (outs : t.bus.outs = []) (off : t.worker.wph = .off)
    (size : t.stream.bufSize % 8 = 0 ∧ t.stream.bufSize ≤ t.env.par.maxBuf) : EngineInv t := by
  constructor
  case buf_size => exact size
  all_goals rcases rest with e | e <;> simp [e, enabled, credits, dph, cancel, nb, outs, off]

theorem TransferInv.atRest (rest : t.stream.eng = .idle ∨ t.stream.eng = .stopped) (credits : t.stream.credits = 0)
    (nb : t.pool.nb = 0) (outs : t.bus.outs = []) (off : t.worker.wph = .off) : TransferInv t where
  in_flight := by simp [nb]
  render_idle := by simp [nb]
  wait_busy := by simp [nb]
  credit_bound := by simp [mainsOut, creditHeld, outs, credits, off]
  credit_exact := by rcases rest with e | e <;> simp [e]
  ids_fresh := by simp [outs]
  ids_distinct := by simp [outs]

/-- Drain finish frees the pool and leaves the stream at rest (R278). -/
theorem Inv.drainFree (h : Inv s) (quiet : s.bus.outs = []) (submit : s.sub.sb = false) (wait : s.hph ≠ .disWait) :
    Inv (drainFree s) := by
  have encoding : s.hph ≠ .sbLine ∧ s.hph ≠ .sbCommit := by
    rw [← not_or, ← h.command.sb_iff, submit]; nofun
  exact ⟨.reset rfl, .atRest (.inr rfl) rfl rfl rfl rfl rfl quiet rfl h.engine.buf_size,
    .atRest (.inr rfl) rfl rfl quiet rfl, .notEncoding encoding submit h.command.busy_iff (fun e => absurd e wait),
    h.params, h.host_memory⟩

/-- Drain finish with a DISABLE that waits completes it (R278). -/
theorem Inv.drainFinishes (h : Inv s) (quiet : s.bus.outs = []) (submit : s.sub.sb = false) (c : Code) :
    Inv (Machine.finish c (Machine.drainFree s)) :=
  ⟨.reset rfl, .atRest (.inr rfl) rfl rfl rfl rfl rfl quiet rfl h.engine.buf_size,
    .atRest (.inr rfl) rfl rfl quiet rfl, .notEncoding (by simp) submit (by simp) nofun, h.params, h.host_memory⟩

theorem DrainResult.keepsInv (e : DrainResult s t) (h : Inv s) : Inv t := by
  cases e with
  | stays => exact h
  | joins phase off => exact h.drainJoin phase off
  | cancels phase => exact h.drainCancel phase
  | frees quiet submit wait => exact h.drainFree quiet submit wait
  | finishes quiet submit wait => exact h.drainFinishes quiet submit .ok

/-- The reset state meets the invariant beside every environment whose parameters meet R9 (R70, R340). -/
theorem Inv.reset {e : Env} (par : e.par.wf) (hm : Memory.wf e.hm = true) : Inv { State.reset with env := e } :=
  ⟨.reset rfl, .atRest (.inl rfl) rfl rfl rfl rfl rfl rfl rfl ⟨rfl, Nat.zero_le _⟩,
    .atRest (.inl rfl) rfl rfl rfl rfl, .notEncoding ⟨nofun, nofun⟩ rfl ⟨nofun, fun busy => absurd rfl busy⟩ nofun, par, hm⟩

/-- What the register port does reads and writes nothing of the stream (R30-R34). -/
theorem PortResult.keepsInv (e : PortResult s t) (h : Inv s) : Inv t := by
  cases e with
  | observes | drops | writes => exact h.congr rfl rfl rfl rfl rfl rfl rfl rfl h.host_memory
  | starts w prog idle =>
    have hph : s.hph = .idle := by
      by_contra busy
      rw [h.command.busy_iff.2 busy] at idle
      nomatch idle
    exact ⟨{ h.pool with }, { h.engine with }, { h.transfers with },
      .notEncoding (by simp) (h.command.sb_false (by simp [hph]) (by simp [hph])) (by simp) nofun, h.params,
      h.host_memory⟩

theorem AgentResult.keepsInv {a : Agent} (e : AgentResult s a t) (h : Inv s) : Inv t := by
  cases e with
  | port done => exact done.keepsInv h
  | memory a v => exact h.congr rfl rfl rfl rfl rfl rfl rfl rfl (Memory.wf_set h.host_memory a v)
  | host done => exact done.keepsInv h
  | worker done => exact done.keepsInv h
  | bus done => exact done.keepsInv h
  | drain done => exact done.keepsInv h
  | reset => exact .reset h.params h.host_memory

/-- Settles O51: whatever an agent's step can have done keeps the invariant. -/
theorem stepKeepsInvariant : Obligations.StepKeepsInvariant := by
  unfold Obligations.StepKeepsInvariant
  intro s t h e
  have begun : Inv (beginTurn s) := h.congr rfl rfl rfl rfl rfl rfl rfl rfl h.host_memory
  exact (step_result e).keepsInv begun

end Sys2Proof.Machine
end

section
/-!
What the event history tells (R53, R93, R96): where its last event of a kind stands, and that every step keeps what it
tells of the buffers and of the numbers of the transfers.
-/

namespace Sys2Proof.Machine

variable {s t : State}

/-! ### The last event of a kind -/

theorem lastPos_concat (p : Event → Bool) (es : List Event) (e : Event) :
    lastPos p (es ++ [e]) = if p e then some es.length else lastPos p es := by
  by_cases h : p e <;> simp [lastPos, List.zipIdx_append, h]

/-- Events not of the kind put after a history do not move its last position. -/
theorem lastPos_append_of_none {p : Event → Bool} {fs : List Event} (h : ∀ e ∈ fs, p e = false) (es : List Event) :
    lastPos p (es ++ fs) = lastPos p es := by
  induction fs generalizing es with
  | nil => rw [List.append_nil]
  | cons e fs ih =>
    obtain ⟨he, hfs⟩ := List.forall_mem_cons.1 h
    rw [← List.singleton_append, ← List.append_assoc, ih hfs, lastPos_concat, he]
    rfl

/-- An event of the kind after which none is of it stands at the last position. -/
theorem lastPos_eq_some {p : Event → Bool} {es : List Event} {i : Nat} {e : Event} (he : es[i]? = some e)
    (pe : p e = true) (later : ∀ j e, i < j → es[j]? = some e → p e = false) : lastPos p es = some i := by
  obtain ⟨hi, rfl⟩ := List.getElem?_eq_some_iff.1 he
  have none_after : ∀ e ∈ es.drop (i + 1), p e = false := fun e hmem => by
    obtain ⟨j, hj⟩ := List.mem_iff_getElem?.1 hmem
    exact later (i + 1 + j) e (by omega) (by rwa [List.getElem?_drop] at hj)
  rw [← List.take_append_drop (i + 1) es, lastPos_append_of_none none_after, List.take_succ_eq_append_getElem hi,
    lastPos_concat, if_pos pe, List.length_take_of_le hi.le]

theorem lastPos_lt {p : Event → Bool} {es : List Event} {i : Nat} (h : lastPos p es = some i) : i < es.length := by
  obtain ⟨⟨e, j⟩, hlast, rfl⟩ := Option.map_eq_some_iff.1 h
  exact List.snd_lt_of_mem_zipIdx (List.mem_of_mem_filter (List.mem_of_getLast? hlast))

/-! ### Events that tell nothing of buffers and numbers -/

/-- An event that neither allocates a buffer, nor writes one, nor numbers a transfer. -/
def Event.silent : Event → Bool
  | .bufWrite _ _ _ => false
  | .alloc .ok => false
  | .realloc _ _ .ok => false
  | .submitXfer _ _ _ _ => false
  | _ => true

theorem allocates_of_silent {e : Event} (h : e.silent = true) (k : Handle) : allocates k e = false := by
  cases e with
  | alloc r | realloc _ _ r => cases r <;> simp_all [allocates, Event.silent]
  | _ => rfl

theorem writesTo_append (k : Handle) (off : Nat) (es fs : List Event) :
    writesTo k off (es ++ fs) = writesTo k off es ++ writesTo k off fs := List.filterMap_append

theorem writesTo_of_silent {es : List Event} (h : ∀ e ∈ es, e.silent = true) (k : Handle) (off : Nat) :
    writesTo k off es = [] := by
  refine List.filterMap_eq_nil_iff.2 fun e he => ?_
  have := h e he
  cases e with
  | bufWrite => simp [Event.silent] at this
  | _ => rfl

theorem submittedIds_append (es fs : List Event) : submittedIds (es ++ fs) = submittedIds es ++ submittedIds fs :=
  List.filterMap_append

theorem submittedIds_of_silent {es : List Event} (h : ∀ e ∈ es, e.silent = true) : submittedIds es = [] := by
  refine List.filterMap_eq_nil_iff.2 fun e he => ?_
  have := h e he
  cases e with
  | submitXfer => simp [Event.silent] at this
  | _ => rfl

theorem writesTo_bufWrites (b k : Handle) (off : Nat) (ws : List (Nat × Byte)) :
    writesTo k off (ws.map fun w => .bufWrite b w.1 w.2)
      = if k = b then (ws.filter fun w => w.1 == off).map (·.2) else [] := by
  induction ws with
  | nil => simp [writesTo]
  | cons w ws ih =>
    rw [List.map_cons, ← List.singleton_append, writesTo_append, ih]
    by_cases hk : k = b
    · subst hk
      by_cases hw : w.1 = off <;> simp [writesTo, hw]
    · simp [writesTo, hk, Ne.symm hk]

/-! ### Keeping what the history tells -/

/-- What the history of `s` tells of buffers and numbers, that of `t` tells too. -/
structure KeepsHistory (s t : State) : Prop where
  tells : HistoryTellsBuffers s → HistoryTellsBuffers t
  numbers : HistoryNumbersTransfers s → HistoryNumbersTransfers t

theorem KeepsHistory.refl (s : State) : KeepsHistory s s := ⟨id, id⟩

theorem KeepsHistory.trans {u : State} (h : KeepsHistory s t) (k : KeepsHistory t u) : KeepsHistory s u :=
  ⟨k.tells ∘ h.tells, k.numbers ∘ h.numbers⟩

/-- The numbering is kept where the new events submit nothing. -/
theorem HistoryNumbersTransfers.append (h : HistoryNumbersTransfers s) (es : List Event)
    (events : t.events = s.events ++ es) (none : submittedIds es = []) (nextId : t.bus.nextId = s.bus.nextId) :
    HistoryNumbersTransfers t := by
  rwa [HistoryNumbersTransfers, events, submittedIds_append, none, List.append_nil, nextId]

/-- The history `es` tells what buffer `k` holds as `b` records it (R85, R96): `HistoryTellsBuffers` says it of each
allocated buffer. -/
def Told (es : List Event) (k : Handle) (b : Buffer) : Prop :=
  lastPos (allocates k) es = some b.born ∧
  ∀ off, Memory.get b.data off = (writesTo k off (es.drop b.born)).getLast?

/-- Events that neither allocate nor write the buffer leave it told. -/
theorem Told.append {es fs : List Event} {k : Handle} {b : Buffer} (h : Told es k b)
    (allocs : ∀ e ∈ fs, allocates k e = false) (writes : ∀ off, writesTo k off fs = []) : Told (es ++ fs) k b := by
  obtain ⟨allocated, bytes⟩ := h
  refine ⟨(lastPos_append_of_none allocs es).trans allocated, fun off => ?_⟩
  rw [List.drop_append_of_le_length (lastPos_lt allocated).le, writesTo_append, writes, List.append_nil, bytes]

/-- A fresh buffer is told by the event that allocates it, the last of the history. -/
theorem Told.fresh {es : List Event} {e : Event} {k : Handle} (alloc : allocates k e = true)
    (write : ∀ off, writesTo k off [e] = []) (size : Nat) : Told (es ++ [e]) k (Buffer.fresh size es.length) := by
  refine ⟨(lastPos_concat ..).trans (if_pos alloc), fun off => ?_⟩
  rw [Buffer.fresh, List.drop_left, write]
  rfl

/-- A step that leaves the buffers' bytes alone and whose events tell nothing of them. -/
theorem KeepsHistory.of_silent (es : List Event) (events : t.events = s.events ++ es)
    (silent : ∀ e ∈ es, e.silent = true) (nextId : t.bus.nextId = s.bus.nextId)
    (nb : t.pool.nb = s.pool.nb) (data : ∀ k, (t.pool.buf k).data = (s.pool.buf k).data)
    (born : ∀ k, (t.pool.buf k).born = (s.pool.buf k).born) : KeepsHistory s t where
  tells := fun h four k => by
    rw [events, data, born]
    exact Told.append (h (nb ▸ four) k) (fun e he => allocates_of_silent (silent e he) k)
      (writesTo_of_silent silent k)
  numbers := fun h => h.append es events (submittedIds_of_silent silent) nextId

/-- The same where the whole pool stays. -/
theorem KeepsHistory.of_pool (es : List Event) (events : t.events = s.events ++ es)
    (silent : ∀ e ∈ es, e.silent = true) (nextId : t.bus.nextId = s.bus.nextId) (pool : t.pool = s.pool) :
    KeepsHistory s t :=
  .of_silent es events silent nextId (by rw [pool]) (fun _ => by rw [pool]) (fun _ => by rw [pool])

/-- Every write of a buffer is told (R96). -/
theorem bufWrite_keepsHistory (b : Handle) (ws : List (Nat × Byte)) (s : State) :
    KeepsHistory s (bufWrite b ws s) where
  tells := fun h four k => by
    obtain ⟨allocated, bytes⟩ := h four k
    have silent : ∀ e ∈ ws.map fun w => Event.bufWrite b w.1 w.2, allocates k e = false :=
      List.forall_mem_map.2 fun _ _ => rfl
    have born : ((bufWrite b ws s).pool.buf k).born = (s.pool.buf k).born := by
      by_cases hk : k = b <;> simp [buf_setBuf, hk]
    rw [born, bufWrite_events, lastPos_append_of_none silent]
    refine ⟨allocated, fun off => ?_⟩
    rw [List.drop_append_of_le_length (lastPos_lt allocated).le, writesTo_append, writesTo_bufWrites, bufWrite_pool,
      buf_setBuf]
    split_ifs with hk
    · subst hk
      rw [Memory.get_setAll, List.getLast?_append, bytes]
    · rw [List.append_nil, bytes]
  numbers := fun h => h.append _ (bufWrite_events s b ws) (by simp [submittedIds]) rfl

/-- A lazy resize is told, and the buffer's bytes start anew (R85, R222). -/
theorem resized_keepsHistory (b : Handle) (s : State) : KeepsHistory s (resized b s) where
  tells := fun h four k => by
    rw [resized_events, resized_pool, buf_setBuf]
    split_ifs with hk
    · exact Told.fresh (by simp [allocates, hk]) (fun _ => rfl) s.stream.bufSize
    · exact Told.append (h four k) (by simp [allocates, Ne.symm hk]) fun _ => rfl
  numbers := fun h => h.append _ (resized_events s b) rfl rfl

/-- ENABLE's allocation is told, and every buffer's bytes start anew (R85, R210). -/
theorem startStream_keepsHistory (s : State) :
    KeepsHistory s (startStream s.events.length (emit (.alloc .ok) s)) where
  tells := fun _ _ k => by
    have fresh : (Pool.allocated s.stream.bufSize s.events.length).buf k
        = Buffer.fresh s.stream.bufSize s.events.length := by simp [Pool.buf, Pool.allocated]
    rw [startStream_events, emit_events, startStream_pool, emit_stream, fresh]
    exact Told.fresh rfl (fun _ => rfl) s.stream.bufSize
  numbers := fun h => h.append [.alloc .ok] rfl rfl rfl

/-- An accepted submission takes the next number (R53). -/
theorem accepted_keepsHistory (k : XferKind) (n : Nat) (p : WorkerPhase) (s : State) :
    KeepsHistory s (accepted k n p s) where
  tells := fun h four b => Told.append (h four b) (by simp [allocates]) fun _ => rfl
  numbers := fun ⟨nodup, fresh⟩ => by
    have ids : submittedIds (accepted k n p s).events = submittedIds s.events ++ [s.bus.nextId] := by
      rw [accepted_events, submittedIds_append]; rfl
    refine ⟨?_, fun id hid => ?_⟩
    · rw [ids, List.nodup_append]
      refine ⟨nodup, List.nodup_singleton _, fun a ha b hb e => ?_⟩
      exact absurd (fresh a ha) (by rw [e, List.mem_singleton.1 hb]; exact Nat.lt_irrefl _)
    · rw [ids, List.mem_append, List.mem_singleton] at hid
      rcases hid with hid | rfl
      · exact Nat.lt_succ_of_lt (fresh id hid)
      · exact Nat.lt_succ_self _

/-- Where no pool is left the history has no buffer to tell of (R278, R340). -/
theorem HistoryTellsBuffers.of_no_pool (h : t.pool.nb = 0) : HistoryTellsBuffers t := by
  intro four
  rw [h] at four
  nomatch four

/-! ### The commands and the agents -/

theorem CommandResult.keepsHistory {i : Instr} (e : CommandResult s i t) : KeepsHistory s t := by
  cases e with
  | finished | solved | unsolved | reportedBpp | configured | waits | tearsDown | joins | clears | begins =>
    exact .of_pool [] (by simp) (by simp) rfl rfl
  | negotiated delta best =>
    exact .of_pool [.pll best.cfg] (by simp) (by simp [Event.silent]) (by simp) (by simp)
  | notAllocated => exact .of_pool [.alloc .nomem] rfl (by simp [Event.silent]) rfl rfl
  | notResized b =>
    exact .of_pool [.realloc b s.stream.bufSize .nomem, .fault] (by simp) (by simp [Event.silent]) rfl rfl
  | packed => exact (bufWrite_keepsHistory ..).trans (.of_pool [] (by simp [packLine]) (by simp) rfl rfl)
  | encodes => exact (bufWrite_keepsHistory ..).trans (.of_pool [] (by simp [packLine]) (by simp) rfl rfl)
  | enabled => exact (startStream_keepsHistory s).trans (.of_pool [] (by simp) (by simp) rfl rfl)
  | beginsResized b => exact (resized_keepsHistory b s).trans (.of_pool [] (by simp) (by simp) rfl rfl)
  | commits => exact .of_silent [] (by simp) (by simp) rfl (by simp) (by simp) (by simp)

theorem HostResult.keepsHistory (e : HostResult s t) : KeepsHistory s t := by
  cases e with
  | stays => exact .refl s
  | rejects c => exact .of_pool [] (by simp) (by simp) rfl rfl
  | runs _ _ done => exact done.keepsHistory
  | submits _ done => exact done.keepsHistory

theorem PortResult.keepsHistory (e : PortResult s t) : KeepsHistory s t := by
  cases e with
  | observes | starts | drops | writes => exact .of_pool [] (by simp) (by simp) rfl rfl

theorem WorkerResult.keepsHistory (e : WorkerResult s t) : KeepsHistory s t := by
  cases e with
  | stays | exits | takesCredit => exact .of_pool [] (by simp) (by simp) rfl rfl
  | selects _ b =>
    exact .of_silent [] (by simp) (by simp) rfl (by simp [selectBuffer_pool]) (by simp [selectBuffer_pool])
      (by simp [selectBuffer_pool])
  | submits => exact accepted_keepsHistory ..
  | retries => exact .of_pool [_] rfl (by simp [Event.silent]) rfl rfl
  | @givesUp k =>
    exact .of_silent [.submitFail s.worker.cur k s.env.ans.submit, .fault] (by simp) (by simp [Event.silent]) rfl
      (by simp) (by simp) (by simp)

theorem KeepsHistory.completeTransmit (h : KeepsHistory s t) (x : Transfer) :
    KeepsHistory s (completeTransmit x t) := by
  rw [completeTransmit_eq]
  refine h.trans (.of_silent (if x.kind = .main then [.vblank] else []) ?_ ?_ rfl (by simp) (by simp) (by simp))
  · dsimp only; split_ifs <;> simp
  · split_ifs <;> simp [Event.silent]

theorem Event.silent_of_ofCompletion {x : Transfer} {st : XferStatus} {e : Event} (h : e.ofCompletion x st) :
    e.silent = true := by
  rcases h with rfl | ⟨r, rfl⟩ | ⟨r, rfl⟩ <;> rfl

theorem BusResult.keepsHistory (e : BusResult s t) : KeepsHistory s t := by
  cases e with
  | stays => exact .refl s
  | completes x out st =>
    have told : KeepsHistory s { s with
        events := s.events ++ [.complete x.id st]
        status := { s.status with xferErr := s.status.xferErr || st = .error } } :=
      .of_pool [.complete x.id st] rfl (by simp [Event.silent]) rfl rfl
    exact told.completeTransmit x
  | fails x out es events =>
    have told : KeepsHistory s { s with events := s.events ++ es } :=
      .of_pool es rfl (fun e he => Event.silent_of_ofCompletion (events e he)) rfl rfl
    exact (told.completeTransmit x).trans (.of_pool [.fault] rfl (by simp [Event.silent]) rfl rfl)
  | resubmits x es events =>
    exact .of_pool es rfl (fun e he => Event.silent_of_ofCompletion (events e he)) rfl rfl

theorem DrainResult.keepsHistory (e : DrainResult s t) : KeepsHistory s t := by
  cases e with
  | stays => exact .refl s
  | joins => exact .of_pool [] (by simp) (by simp) rfl rfl
  | cancels => exact .of_pool [.cancelAll] rfl (by simp [Event.silent]) rfl rfl
  | frees | finishes => exact ⟨fun _ => .of_no_pool rfl, fun h => h.append [.free] rfl rfl rfl⟩

theorem AgentResult.keepsHistory {a : Agent} (e : AgentResult s a t) : KeepsHistory s t := by
  cases e with
  | port done => exact done.keepsHistory
  | memory => exact .of_pool [] (by simp) (by simp) rfl rfl
  | host done => exact done.keepsHistory
  | worker done => exact done.keepsHistory
  | bus done => exact done.keepsHistory
  | drain done => exact done.keepsHistory
  | reset => exact ⟨fun _ => .of_no_pool rfl, fun _ => ⟨List.nodup_nil, nofun⟩⟩

/-- Settles O52: the history tells the same of the state whose turn has begun, and no agent's step loses it. -/
theorem stepKeepsHistory : Obligations.StepKeepsHistory := by
  unfold Obligations.StepKeepsHistory
  exact ⟨fun s t h e => (step_result e).keepsHistory.tells h, fun s t h e => (step_result e).keepsHistory.numbers h⟩

end Sys2Proof.Machine
end

section
/-!
What a command leaves alone (R33, R80, R117, R285, R301), and what a step may change in STATUS (R34-R40).
-/

namespace Sys2Proof.Machine

variable {s t : State}

/-! ### The registers and the host's side under a command -/

theorem KeepsRegs.of_regs {ks : List (Fin 8)} (regs : t.regs = s.regs) : KeepsRegs ks s t := by
  simp [KeepsRegs, regs]

theorem setRes_resWritten (i k : Fin 8) (v : Word) (s : State) :
    (setRes i v s).regs.resWritten[k] = if k = i then true else s.regs.resWritten[k] := by
  by_cases hk : k = i
  · subst hk; simp [setRes]
  · have : (i : Nat) ≠ k := fun e => hk (Fin.ext e.symm)
    simp [setRes, hk, this]

/-- A write of a RES register that the list names leaves the others alone (R33). -/
theorem KeepsRegs.setRes {ks : List (Fin 8)} {i : Fin 8} (h : KeepsRegs ks s t) (mem : i ∈ ks) (v : Word) :
    KeepsRegs ks s (setRes i v t) := by
  obtain ⟨arg, argWritten, res⟩ := h
  refine ⟨arg, argWritten, fun k hk => ?_⟩
  have ne : k ≠ i := fun e => hk (e ▸ mem)
  rw [setRes_res, setRes_resWritten, if_neg ne, if_neg ne]
  exact res k hk

theorem KeepsRegs.setPllRes {ks : List (Fin 8)} (h : KeepsRegs ks s t) (mem : ∀ i ∈ [0, 1, 2, 3], i ∈ ks)
    (best : Best) : KeepsRegs ks s (setPllRes best t) :=
  (((h.setRes (mem 0 (by simp)) _).setRes (mem 1 (by simp)) _).setRes (mem 2 (by simp)) _).setRes (mem 3 (by simp)) _

theorem KeepsRegs.finish {ks : List (Fin 8)} (h : KeepsRegs ks s t) (c : Code) : KeepsRegs ks s (finish c t) := h

/-- NEGOTIATE's row names every RES register (R117). -/
theorem acceptMode_keepsRegs (ht : Nat) (delta : Int) (best : Best) (bpp : Nat) (s : State) :
    KeepsRegs (resWrittenBy .negotiate) s (acceptMode ht delta best bpp s) :=
  have refl : KeepsRegs (resWrittenBy .negotiate) s s := .of_regs rfl
  ((((refl.setPllRes (by simp [resWrittenBy]) best).setRes (i := 4) (by decide) _).setRes (i := 5) (by decide)
    _).setRes (i := 6) (by decide) _).setRes (i := 7) (by decide) _

/-- Settles O13: each outcome writes RES registers of its command's row, by `setRes`, and no other register. -/
theorem resultRegistersKept : Obligations.ResultRegistersKept := by
  unfold Obligations.ResultRegistersKept
  intro i s t e
  have refl {ks : List (Fin 8)} {u : State} (regs : u.regs = s.regs) : KeepsRegs ks s u := .of_regs regs
  cases exec_result e with
  | finished | notAllocated | enabled | waits | tearsDown | joins | begins | beginsResized | notResized | encodes
  | clears => exact refl rfl
  | packed b h => cases b <;> exact ((refl rfl).setRes (by simp [resWrittenBy, packInstr]) _).finish .ok
  | solved best => exact ((refl rfl).setPllRes (by simp [resWrittenBy]) best).finish .ok
  | unsolved =>
    exact ((((refl rfl).setRes (by decide) _).setRes (by decide) _).setRes (by decide) _).setRes (by decide) _
  | negotiated delta best bpp => exact (acceptMode_keepsRegs _ delta best bpp s).finish .ok
  | reportedBpp | configured | commits => exact ((refl rfl).setRes (by decide) _).finish .ok

/-- Settles O14: only ENABLE touches the bus, which it empties, and only NEGOTIATE touches PLL_OUT. -/
theorem commandsKeepHostSide : Obligations.CommandsKeepHostSide := by
  unfold Obligations.CommandsKeepHostSide
  intro i s t e
  cases exec_result e with
  | negotiated => exact ⟨by simp, by simp, by simp, .inl (by simp), fun other => absurd rfl other⟩
  | enabled => exact ⟨rfl, rfl, rfl, .inr ⟨rfl, rfl⟩, fun _ => rfl⟩
  | _ => exact ⟨rfl, rfl, rfl, .inl rfl, fun _ => rfl⟩

/-! ### STATUS -/

/-- The agents and commands that may clear a sticky bit (R37-R40, R230, R340). -/
def Clears (who : Agent) (s : State) : Prop :=
  who = .reset ∨ (who = .host ∧ s.hph = .run ∧ decode s.latch.cmd = .ok .clrsts)

/-- What a step of agent `who` from `s` to `t` may change in STATUS (R34, R36-R40). -/
structure StatusLaw (who : Agent) (s t : State) : Prop where
  streamFault_clear : s.status.streamFault = true → t.status.streamFault = false → Clears who s
  xferErr_clear : s.status.xferErr = true → t.status.xferErr = false → Clears who s
  cmdOverrun_clear : s.status.cmdOverrun = true → t.status.cmdOverrun = false → Clears who s
  streamFault_set : s.status.streamFault = false → t.status.streamFault = true →
    .fault ∈ t.events.drop s.events.length
  fault_told : who ≠ .reset → .fault ∈ t.events.drop s.events.length → t.status.streamFault = true
  xferErr_set : s.status.xferErr = false → t.status.xferErr = true →
    who = .bus ∧ ∃ id, .complete id .error ∈ t.events.drop s.events.length
  cmdOverrun_set : s.status.cmdOverrun = false → t.status.cmdOverrun = true → who = .port ∧ s.status.busy = true
  busy_set : s.status.busy = false → t.status.busy = true → who = .port ∧ t.hph = .run
  code_set : t.status.code ≠ s.status.code ∨ (s.status.busy = true ∧ t.status.busy = false) →
    t.hph = .idle ∧ t.status.busy = false ∧ (who = .host ∨ who = .drain ∨ who = .reset)

variable {who : Agent}

/-- A step whose new events are `es`: STREAM_FAULT is set where FAULT is among them, the other sticky bits stay, and
CODE and BUSY stay or the Host's command is finished. -/
theorem StatusLaw.of_told (es : List Event) (events : t.events = s.events ++ es)
    (fault : t.status.streamFault = (s.status.streamFault || decide (.fault ∈ es)))
    (xferErr : t.status.xferErr = s.status.xferErr) (cmdOverrun : t.status.cmdOverrun = s.status.cmdOverrun)
    (done : (t.status.code = s.status.code ∧ t.status.busy = s.status.busy) ∨
      (t.hph = .idle ∧ t.status.busy = false ∧ (who = .host ∨ who = .drain))) : StatusLaw who s t := by
  have new : t.events.drop s.events.length = es := by rw [events, List.drop_left]
  constructor
  case streamFault_clear => rw [fault]; intro set clear; simp [set] at clear
  case xferErr_clear => rw [xferErr]; intro set clear; simp [set] at clear
  case cmdOverrun_clear => rw [cmdOverrun]; intro set clear; simp [set] at clear
  case streamFault_set => rw [fault, new]; intro clear set; simpa [clear] using set
  case fault_told => rw [fault, new]; intro _ told; simp [told]
  case xferErr_set => rw [xferErr]; intro clear set; simp [clear] at set
  case cmdOverrun_set => rw [cmdOverrun]; intro clear set; simp [clear] at set
  case busy_set =>
    intro clear set
    rcases done with ⟨-, busy⟩ | ⟨-, busy, -⟩ <;> simp [busy, clear] at set
  case code_set =>
    intro changed
    rcases done with ⟨code, busy⟩ | ⟨hph, busy, turn⟩
    · rcases changed with changed | ⟨set, clear⟩
      · exact absurd code changed
      · simp [busy, set] at clear
    · exact ⟨hph, busy, turn.imp_right .inl⟩

/-- A step that leaves STATUS alone and tells no fault. -/
theorem StatusLaw.quiet (es : List Event) (events : t.events = s.events ++ es) (none : .fault ∉ es)
    (status : t.status = s.status) : StatusLaw who s t :=
  .of_told es events (by simp [status, none]) (by rw [status]) (by rw [status])
    (.inl ⟨by rw [status], by rw [status]⟩)

/-- A step that finishes the Host's command and tells no fault (R36). -/
theorem StatusLaw.finished (c : Code) (es : List Event) (events : t.events = s.events ++ es) (none : .fault ∉ es)
    (status : t.status = { s.status with code := c, busy := false }) (hph : t.hph = .idle)
    (turn : who = .host ∨ who = .drain) : StatusLaw who s t :=
  .of_told es events (by simp [status, none]) (by rw [status]) (by rw [status]) (.inr ⟨hph, by rw [status], turn⟩)

/-- A step that is fatal to the stream (R262): its last event is FAULT. -/
theorem StatusLaw.fatal (es : List Event) (events : t.events = s.events ++ es)
    (status : t.status = s.status) : StatusLaw who s (fatal t) :=
  .of_told (es ++ [.fault]) (by simp [events]) (by simp) (by simp [status]) (by simp [status])
    (.inl ⟨by simp [status], by simp [status]⟩)

/-- CLRSTS clears the sticky bits and finishes (R230). -/
theorem StatusLaw.cleared (c : Code) (h : decode s.latch.cmd = .ok .clrsts) (run : s.hph = .run) :
    StatusLaw .host s (finish c (clearSticky s)) := by
  have clears : Clears .host s := .inr ⟨rfl, run, h⟩
  constructor
  case streamFault_clear | xferErr_clear | cmdOverrun_clear => exact fun _ _ => clears
  case code_set => exact fun _ => ⟨rfl, rfl, .inl rfl⟩
  all_goals simp

theorem CommandResult.statusLaw {i : Instr} (e : CommandResult s i t)
    (clears : i = .clrsts → decode s.latch.cmd = .ok .clrsts ∧ s.hph = .run) : StatusLaw .host s t := by
  cases e with
  | finished c => exact .finished c [] (by simp) (by simp) rfl rfl (.inl rfl)
  | unsolved => exact .finished .rejected [] (by simp) (by simp) rfl rfl (.inl rfl)
  | solved | reportedBpp | configured | commits =>
    exact .finished .ok [] (by simp) (by simp) rfl rfl (.inl rfl)
  | negotiated delta best => exact .finished .ok [.pll best.cfg] (by simp) (by simp) (by simp) rfl (.inl rfl)
  | packed => exact .finished .ok _ (bufWrite_events ..) (by simp) rfl rfl (.inl rfl)
  | enabled => exact .finished .ok [.alloc .ok] (by simp) (by simp) rfl rfl (.inl rfl)
  | notAllocated => exact .finished .errNomem [.alloc .nomem] (by simp) (by simp) rfl rfl (.inl rfl)
  | waits | tearsDown | joins | begins => exact .quiet [] (by simp) (by simp) rfl
  | beginsResized b => exact .quiet [.realloc b s.stream.bufSize .ok] (by simp) (by simp) rfl
  | encodes => exact .quiet _ (bufWrite_events ..) (by simp) rfl
  | notResized b =>
    exact .of_told [.realloc b s.stream.bufSize .nomem, .fault] (by simp) (by simp) rfl rfl
      (.inr ⟨rfl, rfl, .inl rfl⟩)
  | clears =>
    obtain ⟨word, run⟩ := clears rfl
    exact .cleared .ok word run

theorem HostResult.statusLaw (e : HostResult s t) : StatusLaw .host s t := by
  cases e with
  | stays => exact .quiet [] (by simp) (by simp) rfl
  | rejects c => exact .finished c [] (by simp) (by simp) rfl rfl (.inl rfl)
  | runs run word done => exact done.statusLaw fun i => ⟨i ▸ word, run⟩
  | submits _ done => exact done.statusLaw nofun

theorem WorkerResult.statusLaw (e : WorkerResult s t) : StatusLaw .worker s t := by
  cases e with
  | stays | exits | takesCredit | selects => exact .quiet [] (by simp) (by simp) rfl
  | submits | retries => exact .quiet [_] rfl (by simp) rfl
  | givesUp => exact .fatal [_] rfl rfl

theorem completeTransmit_status (x : Transfer) (s : State) : (completeTransmit x s).status = s.status := by
  rw [completeTransmit_eq]

theorem completeTransmit_events (x : Transfer) (s : State) :
    (completeTransmit x s).events = s.events ++ if x.kind = .main then [.vblank] else [] := by
  rw [completeTransmit_eq]
  dsimp only
  split_ifs <;> simp

/-- A completion sets XFER_ERR exactly when its status is ERROR, and tells its status (R267). -/
theorem StatusLaw.completes (x : Transfer) (st : XferStatus) (s : State) :
    StatusLaw .bus s (completeTransmit x { s with
      events := s.events ++ [.complete x.id st]
      status := { s.status with xferErr := s.status.xferErr || st = .error } }) := by
  constructor <;> rw [completeTransmit_status]
  case xferErr_set =>
    intro clear set
    have error : st = .error := by simpa [clear] using set
    refine ⟨rfl, x.id, ?_⟩
    rw [completeTransmit_events, List.append_assoc, List.drop_left, error]
    exact List.mem_cons_self
  case fault_told =>
    intro _ told
    rw [completeTransmit_events, List.append_assoc, List.drop_left] at told
    simp at told
  all_goals simp +contextual

theorem BusResult.statusLaw (e : BusResult s t) : StatusLaw .bus s t := by
  cases e with
  | stays => exact .quiet [] (by simp) (by simp) rfl
  | completes x _ st => exact .completes x st s
  | fails x _ es =>
    exact .fatal _ ((completeTransmit_events ..).trans (List.append_assoc ..)) (completeTransmit_status ..)
  | resubmits x es events =>
    refine .quiet es rfl (fun fault => ?_) rfl
    simpa [Event.ofCompletion] using events _ fault

theorem DrainResult.statusLaw (e : DrainResult s t) : StatusLaw .drain s t := by
  cases e with
  | stays | joins => exact .quiet [] (by simp) (by simp) rfl
  | cancels | frees => exact .quiet [_] rfl (by simp) rfl
  | finishes => exact .finished .ok [.free] rfl (by simp) rfl rfl (.inr rfl)

/-- The port sets BUSY with a command's start and CMD_OVERRUN with a drop (R34, R40). -/
theorem PortResult.statusLaw (e : PortResult s t) : StatusLaw .port s t := by
  cases e with
  | observes | writes => exact .quiet [] (by simp) (by simp) rfl
  | starts w prog idle => constructor <;> simp +contextual [idle]
  | drops prog busy => constructor <;> simp +contextual [busy]

/-- A reset clears the whole of STATUS (R70, R340). -/
theorem resetBlock_statusLaw (s : State) : StatusLaw .reset s (resetBlock s) := by
  constructor <;> simp [resetBlock, State.reset, Status.reset, Clears]

theorem AgentResult.statusLaw {a : Agent} (e : AgentResult s a t) : StatusLaw a s t := by
  cases e with
  | port done => exact done.statusLaw
  | memory => exact .quiet [] (by simp) (by simp) rfl
  | host done => exact done.statusLaw
  | worker done => exact done.statusLaw
  | bus done => exact done.statusLaw
  | drain done => exact done.statusLaw
  | reset => exact resetBlock_statusLaw s

/-- Settles O55: `StatusLaw` of the agent whose turn it is, clause by clause. -/
theorem statusBitsChangeByRule : Obligations.StatusBitsChangeByRule := by
  unfold Obligations.StatusBitsChangeByRule
  intro s t e
  obtain ⟨c1, c2, c3, c4, c5, c6, c7, c8, c9⟩ := (step_result e).statusLaw
  exact ⟨c1, c2, c3, c4, c5, c6, c7, c8, c9⟩

end Sys2Proof.Machine
end

section
/-!
The register port (R30-R36, R41, R47), completion (R36, R300) and the reset state (R70, R340).
-/

namespace Sys2Proof.Machine

/-! ### Which register an index names -/

/-- The indices that name no register (R30). -/
theorem ofIndex_reserved : ∀ i : BitVec 5, i.toNat = 7 ∨ (12 ≤ i.toNat ∧ i.toNat ≤ 15) ∨ 24 ≤ i.toNat →
    Reg.ofIndex i = .reserved := by decide

theorem ofIndex_arg : ∀ k : Fin 4, Reg.ofIndex (BitVec.ofNat 5 (8 + k)) = .arg k := by decide

theorem ofIndex_res : ∀ k : Fin 8, Reg.ofIndex (BitVec.ofNat 5 (16 + k)) = .res k := by decide

/-- A write at an index that is neither CMD's nor an ARG's does nothing (R31). -/
theorem writeReg_readOnly (s : State) (i : BitVec 5) (v : Word) (h : (1 ≤ i.toNat ∧ i.toNat ≤ 7) ∨ 12 ≤ i.toNat) :
    writeReg (Reg.ofIndex i) v s = s := by
  have other : Reg.ofIndex i ≠ .cmd ∧ ∀ k, Reg.ofIndex i ≠ .arg k := by revert i; decide
  cases e : Reg.ofIndex i with
  | cmd => exact absurd e other.1
  | arg k => exact absurd e (other.2 k)
  | _ => rfl

/-- Settles O5: which indices name a register, and which of those a write changes. -/
theorem reservedAndReadOnlyRegisters : Obligations.ReservedAndReadOnlyRegisters := by
  unfold Obligations.ReservedAndReadOnlyRegisters
  exact ⟨fun s i h => by rw [ofIndex_reserved i h]; rfl, writeReg_readOnly, fun _ _ => rfl⟩

/-- Settles O6: a CMD write starts the command or is dropped, by BUSY; the Host then stands in RUN. -/
theorem commandWriteStartsOrDrops : Obligations.CommandWriteStartsOrDrops := by
  unfold Obligations.CommandWriteStartsOrDrops
  refine ⟨fun s w idle => ⟨startCommand w s, ?_, rfl, rfl, rfl, rfl, fun i word => hostStep_of_decode rfl word⟩,
    fun s w busy => ?_⟩
  · exact if_neg (by simp [idle])
  · exact if_pos busy

theorem writeArg_arg (k j : Fin 4) (v : Word) (s : State) :
    (writeArg k v s).regs.arg[j] = if j = k then v else s.regs.arg[j] := by
  by_cases h : j = k
  · subst h; simp [writeArg]
  · have : (k : Nat) ≠ j := fun e => h (Fin.ext e.symm)
    simp [writeArg, h, this]

/-- Settles O7: the access is `writeArg`, whose one register `writeArg_arg` reads back. -/
theorem operandRegisters : Obligations.OperandRegisters := by
  unfold Obligations.OperandRegisters
  intro s k v
  refine ⟨writeArg k v s, by rw [hostLine, ofIndex_arg]; rfl, ?_, fun j hj => ?_, rfl, rfl, rfl, rfl⟩
  · exact (writeArg_arg k k v s).trans (if_pos rfl)
  · exact (writeArg_arg k j v s).trans (if_neg hj)

/-! ### The layouts of STATUS, ENGSTATE and PLL_OUT -/

/-- A bit above the low part of a concatenation is one of the high part. -/
theorem getLsbD_append_of_le {m n i : Nat} {x : BitVec m} {y : BitVec n} (h : n ≤ i) :
    (x ++ y).getLsbD i = x.getLsbD (i - n) := by
  rw [BitVec.getLsbD_append, if_neg (Nat.not_lt.2 h)]

theorem getLsbD_append_ofBool {m : Nat} (x : BitVec m) (b : Bool) : (x ++ BitVec.ofBool b).getLsbD 0 = b := by
  rw [BitVec.getLsbD_append]
  cases b <;> rfl

/-- STATUS field by field (R35). -/
theorem statusWord_fields (t : Status) :
    (statusWord t).getLsbD 0 = t.busy ∧ (statusWord t).extractLsb' 1 7 = 0 ∧
    (statusWord t).extractLsb' 8 8 = t.code.toByte ∧ (statusWord t).getLsbD 16 = t.streamFault ∧
    (statusWord t).getLsbD 17 = t.xferErr ∧ (statusWord t).getLsbD 18 = t.cmdOverrun ∧
    (statusWord t).extractLsb' 19 13 = 0 := by
  unfold statusWord
  refine ⟨getLsbD_append_ofBool .., ?_, ?_, ?_, ?_, ?_, ?_⟩
  case refine_3 | refine_4 | refine_5 =>
    repeat rw [getLsbD_append_of_le (by omega)]
    exact getLsbD_append_ofBool ..
  case refine_1 | refine_2 =>
    repeat rw [BitVec.extractLsb'_append_eq_of_le (by omega)]
    exact BitVec.extractLsb'_append_eq_right
  case refine_6 =>
    repeat rw [BitVec.extractLsb'_append_eq_of_le (by omega)]
    exact BitVec.extractLsb'_eq_self

/-- ENGSTATE field by field (R41). -/
theorem engstateWord_fields (s : State) :
    (engstateWord s).extractLsb' 0 3 = s.stream.eng.toBits ∧ (engstateWord s).getLsbD 3 = s.stream.enabled ∧
    (engstateWord s).extractLsb' 4 4 = s.worker.wph.toBits ∧ (engstateWord s).extractLsb' 8 4 = s.stream.dph.toBits ∧
    (engstateWord s).extractLsb' 12 3 = BitVec.ofNat 3 s.pool.nb ∧ (engstateWord s).getLsbD 15 = s.sub.sb ∧
    (engstateWord s).extractLsb' 16 16 = 0 := by
  unfold engstateWord
  refine ⟨BitVec.extractLsb'_append_eq_right, ?_, ?_, ?_, ?_, ?_, ?_⟩
  case refine_1 | refine_5 =>
    repeat rw [getLsbD_append_of_le (by omega)]
    exact getLsbD_append_ofBool ..
  case refine_2 | refine_3 | refine_4 =>
    repeat rw [BitVec.extractLsb'_append_eq_of_le (by omega)]
    exact BitVec.extractLsb'_append_eq_right
  case refine_6 =>
    repeat rw [BitVec.extractLsb'_append_eq_of_le (by omega)]
    exact BitVec.extractLsb'_eq_self

/-- Fields that fit their widths make up the number of R117. -/
theorem pllFields_toNat {c : PllConfig} (p : c.p < 256) (m : c.m < 256) (d : c.d < 256) (band : c.band < 4) :
    (pllFields c).toNat = pllNumber c := by
  have hp : (BitVec.ofNat 8 c.p).toNat = c.p := Nat.mod_eq_of_lt p
  have hm : (BitVec.ofNat 8 c.m).toNat = c.m := Nat.mod_eq_of_lt m
  have hd : (BitVec.ofNat 8 c.d).toNat = c.d := Nat.mod_eq_of_lt d
  have hb : (BitVec.ofNat 2 c.band).toNat = c.band := Nat.mod_eq_of_lt band
  rw [pllFields, BitVec.toNat_append, BitVec.toNat_append, BitVec.toNat_append, hp, hm, hd, hb,
    ← Nat.shiftLeft_add_eq_or_of_lt p, ← Nat.shiftLeft_add_eq_or_of_lt m, ← Nat.shiftLeft_add_eq_or_of_lt d]
  simp only [Nat.shiftLeft_eq, pllNumber]
  omega

/-- VALID is bit 31, and the bits between it and the fields are zero (R47). -/
theorem pllOutWord_fields (o : PllOut) :
    (pllOutWord o).getLsbD 31 = o.valid ∧ (pllOutWord o).extractLsb' 26 5 = 0 := by
  unfold pllOutWord
  split_ifs with valid
  · refine ⟨?_, ?_⟩
    · rw [getLsbD_append_of_le (by omega), getLsbD_append_of_le (by omega), valid]
      rfl
    · rw [BitVec.extractLsb'_append_eq_of_le (by omega)]
      exact BitVec.extractLsb'_append_eq_right
  · simp [valid]

theorem pllOutWord_toNat {o : PllOut} (valid : o.valid = true) :
    (pllOutWord o).toNat = 2 ^ 31 + (pllFields o.cfg).toNat := by
  have low : (pllFields o.cfg).toNat < 2 ^ 31 := lt_trans (pllFields o.cfg).isLt (by decide)
  rw [pllOutWord, if_pos valid, BitVec.toNat_append, BitVec.toNat_append]
  simpa using (Nat.shiftLeft_add_eq_or_of_lt low 1).symm

/-- Settles O8: the words' fields, the registers that read as they stand, and the indices that name none. -/
theorem portReads : Obligations.PortReads := by
  unfold Obligations.PortReads
  intro s
  refine ⟨statusWord_fields s.status, ?engstate, ?pllOut, rfl, Nat.mod_eq_of_lt, ?bpp, Nat.mod_eq_of_lt, ?arg, ?res,
    ?reserved⟩
  case engstate =>
    obtain ⟨eng, enabled, wph, dph, nb, sb, high⟩ := engstateWord_fields s
    refine ⟨(congrArg _ eng).trans ?_, enabled, (congrArg _ wph).trans ?_, (congrArg _ dph).trans ?_, fun lt => ?_, sb,
      high⟩
    · cases s.stream.eng <;> rfl
    · cases s.worker.wph <;> rfl
    · cases s.stream.dph <;> rfl
    · exact (congrArg _ nb).trans (Nat.mod_eq_of_lt lt)
  case pllOut =>
    obtain ⟨valid, gap⟩ := pllOutWord_fields s.pll
    refine ⟨valid, gap, fun invalid => ?_, fun valid p m d band => ?_⟩
    · exact if_neg (by simp [invalid])
    · exact (pllOutWord_toNat valid).trans (congrArg _ (pllFields_toNat p m d band))
  case bpp =>
    have word : readReg s (Reg.ofIndex 4) = bppWord s.stream.bpp := rfl
    rw [word]
    rcases s.stream.bpp with _ | _ | _ | _ <;> rfl
  case arg => exact fun k => by rw [ofIndex_arg]; rfl
  case res =>
    intro k
    rw [ofIndex_res]
    exact ⟨fun written => if_pos written, fun unwritten => if_neg (by simp [unwritten])⟩
  case reserved => exact fun i h => by rw [ofIndex_reserved i h]; rfl

/-! ### Completion and reset -/

/-- Settles O11: `finish` is its own equation, and the codes are those of the table. -/
theorem finishEndsCommand : Obligations.FinishEndsCommand := by
  unfold Obligations.FinishEndsCommand
  exact ⟨fun _ _ => rfl, rfl, rfl, rfl, rfl, rfl, rfl, rfl, rfl, rfl, rfl, rfl, rfl, rfl⟩

/-- Settles O48: the reset state, piece by piece. -/
theorem resetValues : Obligations.ResetValues := by
  unfold Obligations.ResetValues
  exact ⟨rfl, rfl, rfl, rfl, rfl, rfl, rfl, rfl, rfl, rfl, rfl, rfl, rfl, rfl, rfl, rfl, rfl, rfl, rfl, rfl, rfl, rfl,
    rfl, rfl, by decide, by decide, rfl⟩

/-- The opaque parameters meet the constraints of R9 by their form. -/
theorem Params.ofConfig_wf : Params.ofConfig.wf := by
  have groups : Config.maxBufGroups % 2 ^ 29 < 2 ^ 29 := Nat.mod_lt _ (by decide)
  refine ⟨Nat.succ_pos _, Nat.mul_mod_right 8 _, ?_⟩
  simp only [Params.ofConfig]
  omega

/-- Settles O50: the reset state is one at rest, without buffers and with an empty history. -/
theorem resetMeetsInvariant : Obligations.ResetMeetsInvariant := by
  unfold Obligations.ResetMeetsInvariant
  exact ⟨.reset (e := Env.reset) Params.ofConfig_wf rfl, .of_no_pool rfl, List.nodup_nil, nofun⟩

end Sys2Proof.Machine
end

section
/-!
The clock search (R173, R175, R178): its candidates are the legal triples, and what it finds is one of them.
-/

namespace Sys2Proof.Machine

theorem mem_pMultipliers {m : Nat} : m ∈ pMultipliers ↔ 1 ≤ m ∧ m ≤ 128 := by
  simp only [pMultipliers, List.mem_map, List.mem_range]
  exact ⟨fun ⟨a, ha, e⟩ => by omega, fun h => ⟨m - 1, by omega, by omega⟩⟩

theorem mem_pDivtab {d : Nat} : d ∈ pDivtab ↔ 2 ≤ d ∧ d ≤ 128 ∧ d % 2 = 0 := by
  simp only [pDivtab, List.mem_map, List.mem_range]
  exact ⟨fun ⟨a, ha, e⟩ => by omega, fun h => ⟨d / 2 - 1, by omega, by omega⟩⟩

theorem vcoValid_iff {v : Nat} : vcoValid v = true ↔ 62500000 ≤ v ∧ v ≤ 1000000000 := by
  rw [vcoValid, Bool.and_eq_true, decide_eq_true_iff, decide_eq_true_iff]
  rfl

/-- The search evaluates exactly the legal triples (R173, R175). -/
theorem mem_candidates {c : Candidate} : c ∈ candidates ↔ PllLegal c.p c.m c.d := by
  obtain ⟨p, m, d⟩ := c
  simp only [candidates, List.mem_flatMap, List.mem_map, List.mem_filter, mem_pMultipliers, mem_pDivtab, vcoValid_iff,
    Candidate.mk.injEq, PllLegal]
  constructor
  · rintro ⟨p', hp, m', ⟨hm, hv⟩, d', hd, rfl, rfl, rfl⟩
    exact ⟨by simpa [pPrescalers] using hp, hm.1, hm.2, hv.1, hv.2, hd⟩
  · rintro ⟨hp, hm1, hm2, hv1, hv2, hd⟩
    exact ⟨p, by simpa [pPrescalers] using hp, m, ⟨⟨hm1, hm2⟩, hv1, hv2⟩, d, hd, rfl, rfl, rfl⟩

/-- The scan ends with the best it started from or with a candidate (R175). -/
theorem scan_cases (r : Nat) (cs : List Candidate) (best : Best) :
    scan r cs best = best ∨ ∃ c ∈ cs, scan r cs best = c.toBest r := by
  induction cs generalizing best with
  | nil => exact .inl rfl
  | cons c cs ih =>
    unfold scan
    split
    · rcases ih (c.toBest r) with e | ⟨d, hd, e⟩
      · exact .inr ⟨c, List.mem_cons_self, e⟩
      · exact .inr ⟨d, List.mem_cons_of_mem c hd, e⟩
    · exact (ih best).imp_right fun ⟨d, hd, e⟩ => ⟨d, List.mem_cons_of_mem c hd, e⟩

/-- The scan ends no worse than it started. -/
theorem scan_err_le_best (r : Nat) (cs : List Candidate) (best : Best) : (scan r cs best).err ≤ best.err := by
  induction cs generalizing best with
  | nil => exact le_rfl
  | cons c cs ih =>
    unfold scan
    split
    · rename_i better
      exact (ih (c.toBest r)).trans better.le
    · exact ih best

/-- No candidate beats what the scan ends with (R175). -/
theorem scan_err_le {r : Nat} {c : Candidate} {cs : List Candidate} (hc : c ∈ cs) (best : Best) :
    (scan r cs best).err ≤ c.error r := by
  induction cs generalizing best with
  | nil => nomatch hc
  | cons d cs ih =>
    unfold scan
    rcases List.mem_cons.1 hc with rfl | hc
    · split
      · exact scan_err_le_best r cs (c.toBest r)
      · rename_i worse
        exact (scan_err_le_best r cs best).trans (Nat.le_of_not_lt worse)
    · split
      · exact ih hc _
      · exact ih hc _

/-- The slowest clock, of prescaler 2, multiplier 13 and divisor 128 (R178). -/
def slowestCandidate : Candidate where
  p := 2
  m := 13
  d := 128

theorem slowestCandidate_mem : slowestCandidate ∈ candidates := by
  rw [mem_candidates]
  simp [slowestCandidate, PllLegal, pllVco]

/-- Against every request its error is below the sentinel: 507 812 500 000 times at a request of 1, and less than 10^6
ppm above its own clock. -/
theorem slowestCandidate_error {r : Nat} (h : 1 ≤ r) : slowestCandidate.error r < pSentinel := by
  have clock : slowestCandidate.clock = 507812500000 := by decide
  rw [Candidate.error, clock, ppmError, absDiff, micro, pSentinel, Nat.div_lt_iff_lt_mul h]
  omega

/-- What the search finds is a legal triple with its band and clock (R175); the sentinel never stands. -/
theorem search_found {r : Nat} (h : 1 ≤ r) : ∃ c : Candidate, PllLegal c.p c.m c.d ∧ search r = c.toBest r := by
  rcases scan_cases r candidates Best.initial with e | ⟨c, hc, e⟩
  · have le := scan_err_le (r := r) slowestCandidate_mem Best.initial
    rw [e] at le
    exact absurd (slowestCandidate_error h) (Nat.not_lt.2 le)
  · exact ⟨c, mem_candidates.1 hc, e⟩

theorem band_le_three (vco : Nat) : band vco ≤ 3 := by
  unfold band
  split_ifs <;> decide

/-- A legal VCO is one of 65 MHz to 1 GHz in steps of 5 MHz, at a multiplier of 7 or more (R178). -/
theorem PllLegal.vco_range {p m d : Nat} (h : PllLegal p m d) :
    7 ≤ m ∧ 65000000 ≤ pllVco p m ∧ pllVco p m ≤ 1000000000 ∧ pllVco p m % 5000000 = 0 := by
  obtain ⟨rfl | rfl, -, -, low, high, -⟩ := h <;> unfold pllVco at * <;> omega

/-- The clock of a legal triple (R178): the VCO's bounds by the largest and the smallest divisor. -/
theorem PllLegal.clock_range {p m d : Nat} (h : PllLegal p m d) :
    507812500000 ≤ pllClock p m d ∧ pllClock p m d ≤ 500000000 * 10 ^ 6 := by
  obtain ⟨-, low, high, -⟩ := h.vco_range
  obtain ⟨-, -, -, -, -, small, large, -⟩ := h
  unfold pllClock
  constructor
  · rw [Nat.le_div_iff_mul_le (by omega)]
    calc 507812500000 * d ≤ 507812500000 * 128 := Nat.mul_le_mul_left _ large
      _ ≤ pllVco p m * 10 ^ 6 := by omega
  · refine Nat.div_le_of_le_mul ?_
    calc pllVco p m * 10 ^ 6 ≤ 2 * (500000000 * 10 ^ 6) := by omega
      _ ≤ d * (500000000 * 10 ^ 6) := Nat.mul_le_mul_right _ small

/-- Settles O22: the search finds a legal triple, and legal triples lie in the ranges. -/
theorem searchResultInRange : Obligations.SearchResultInRange := by
  unfold Obligations.SearchResultInRange
  intro r h
  obtain ⟨⟨p, m, d⟩, legal, e⟩ := search_found h
  rw [e]
  obtain ⟨seven, vcoLow, vcoHigh, step⟩ := legal.vco_range
  obtain ⟨clockLow, clockHigh⟩ := legal.clock_range
  obtain ⟨hp, -, hm, -, -, small, large, even⟩ := legal
  exact ⟨hp, seven, hm, even, small, large, band_le_three _, vcoLow, vcoHigh, step, clockLow, clockHigh⟩

end Sys2Proof.Machine
end

section
/-!
What the bus carries (R88, R93): the byte of a transfer at one offset, and the whole payload of an accepted transfer.
-/

namespace Sys2Proof.Machine

/-! ### One byte -/

theorem mem_writesTo {h : Handle} {off : Nat} {v : Byte} {es : List Event} :
    v ∈ writesTo h off es ↔ .bufWrite h off v ∈ es := by
  rw [writesTo, List.mem_filterMap]
  constructor
  · rintro ⟨e, he, hv⟩
    cases e with
    | bufWrite k o w =>
      obtain ⟨⟨rfl, rfl⟩, rfl⟩ : (k = h ∧ o = off) ∧ w = v := by simpa using hv
      exact he
    | _ => simp at hv
  · exact fun he => ⟨_, he, by simp⟩

/-- An event of a transfer's window stands after position i with no completion of the transfer before it (R93). -/
theorem mem_window {id i : Nat} {es : List Event} {e : Event} (he : e ∈ window id i es) :
    ∃ k, i < k ∧ es[k]? = some e ∧ ∀ j st, i < j → j < k → es[j]? ≠ some (.complete id st) := by
  obtain ⟨m, hm⟩ := List.mem_iff_getElem?.1 he
  have pref : window id i es <+: es.drop (i + 1) := List.takeWhile_prefix _
  have inside : ∀ j, j ≤ m → (window id i es)[j]? = es[i + 1 + j]? := fun j hj => by
    have lt : j < (window id i es).length := hj.trans_lt (List.getElem?_eq_some_iff.1 hm).1
    rw [← List.getElem?_drop, List.getElem?_eq_getElem lt, pref.getElem lt, List.getElem?_eq_getElem]
  refine ⟨i + 1 + m, by omega, by rw [← inside m le_rfl, hm], fun j st low high complete => ?_⟩
  obtain ⟨n, rfl⟩ : ∃ n, j = i + 1 + n := ⟨j - (i + 1), by omega⟩
  rw [← inside n (by omega)] at complete
  have stops := List.mem_takeWhile_imp (List.mem_of_getElem? complete)
  simp at stops

/-- What a reading transfer carries at an offset is one of the bytes R93 names, and the first of them where there is no
other. -/
theorem wireByte_of_readFrom {s : State} {id i : Nat} (read : readFrom id s.events = some i) (h : Handle) (off : Nat) :
    (∃ x, wireByte s id h off = some x ∧ x ∈ wireChoices s id h off) ∧
    (writesTo h off (window id i s.events) = [] →
      wireByte s id h off = some (dataAfter s.env.epoch h off (s.events.take i))) := by
  have choices : wireChoices s id h off
      = dataAfter s.env.epoch h off (s.events.take i) :: writesTo h off (window id i s.events) := by
    rw [wireChoices, read]
  rw [wireByte, choices]
  cases writes : writesTo h off (window id i s.events) with
  | nil => exact ⟨⟨_, rfl, by simp⟩, fun _ => rfl⟩
  | cons w ws =>
    refine ⟨?_, nofun⟩
    have pick : Config.wirePick s.env.epoch id off % ((w :: ws).length + 1)
        < (dataAfter s.env.epoch h off (s.events.take i) :: w :: ws).length := Nat.mod_lt _ (Nat.succ_pos _)
    exact ⟨_, List.getElem?_eq_getElem pick, List.getElem_mem pick⟩

/-! ### The payload -/

theorem exists_lastPos {p : Event → Bool} {es : List Event} {e : Event} (he : e ∈ es) (pe : p e = true) :
    ∃ i, lastPos p es = some i := by
  obtain ⟨i, hi⟩ := List.mem_iff_getElem?.1 he
  have some : (es.zipIdx.filter fun x => p x.1) ≠ [] :=
    List.ne_nil_of_mem (List.mem_filter.2 ⟨List.mk_mem_zipIdx_iff_getElem?.2 hi, pe⟩)
  exact ⟨_, by rw [lastPos, List.getLast?_eq_some_getLast some]; rfl⟩

/-- A transfer the bus accepted carries a byte at every offset (R93). -/
theorem wireByte_isSome {s : State} {id : Nat} {h : Handle} {kind : XferKind} {len : Nat}
    (sent : .submitXfer id h kind len ∈ s.events) (off : Nat) : ∃ x, wireByte s id h off = some x := by
  obtain ⟨i, read⟩ := exists_lastPos (p := startsReading id) sent (by simp [startsReading])
  obtain ⟨⟨x, hx, -⟩, -⟩ := wireByte_of_readFrom read h off
  exact ⟨x, hx⟩

theorem mem_submittedIds {id : Nat} {es : List Event} {h : Handle} {kind : XferKind} {len : Nat}
    (he : .submitXfer id h kind len ∈ es) : id ∈ submittedIds es :=
  List.mem_filterMap.2 ⟨_, he, rfl⟩

/-- What one event of the history adds to the payload of transfer `id` (R88). -/
def carriedBy (s : State) (id : Nat) : Event → List Byte
  | .submitXfer i h .main len => if i = id then (List.range len).filterMap (wireByte s id h) else []
  | _ => []

theorem payload_eq (s : State) (id : Nat) : payload s id = s.events.flatMap (carriedBy s id) := rfl

/-- Events that do not submit the transfer add nothing to its payload. -/
theorem carriedBy_others {id : Nat} {es : List Event} (others : id ∉ submittedIds es) (s : State) :
    es.flatMap (carriedBy s id) = [] := by
  refine List.flatMap_eq_nil_iff.2 fun e he => ?_
  cases e with
  | submitXfer i h kind len =>
    have ne : i ≠ id := fun e => others (e ▸ mem_submittedIds he)
    cases kind with
    | main => exact if_neg ne
    | zlp => rfl
  | _ => rfl

/-- Where one event alone submits a transfer, that event says what the transfer carries (R88). -/
theorem payload_of_unique {s : State} {id : Nat} {h : Handle} {kind : XferKind} {len : Nat} {before after : List Event}
    (events : s.events = before ++ .submitXfer id h kind len :: after) (unique : id ∉ submittedIds (before ++ after)) :
    payload s id = if kind = .main then (List.range len).filterMap (wireByte s id h) else [] := by
  rw [submittedIds_append, List.mem_append, not_or] at unique
  rw [payload_eq, events, List.flatMap_append, List.flatMap_cons, carriedBy_others unique.1, carriedBy_others unique.2,
    List.nil_append, List.append_nil]
  cases kind with
  | main => exact if_pos rfl
  | zlp => rfl

/-- Settles O57: numbers tell an accepted transfer's submission apart, and its window holds the writes that race. -/
theorem wireBytes : Obligations.WireBytes := by
  unfold Obligations.WireBytes
  refine ⟨fun s id h kind len numbers sent => ?_, fun s id i h off starts later => ?_⟩
  · obtain ⟨before, after, events⟩ := List.append_of_mem sent
    have unique : id ∉ submittedIds (before ++ after) := by
      obtain ⟨nodup, -⟩ := numbers
      rw [events, submittedIds_append] at nodup
      rw [submittedIds_append]
      exact (List.nodup_middle.1 nodup).notMem
    rw [payload_of_unique events unique]
    refine ⟨fun zlp => by simp [zlp], fun main => ?_⟩
    choose byte carried using wireByte_isSome sent
    have total : wireByte s id h = fun off => some (byte off) := funext carried
    rw [if_pos main, total, List.filterMap_eq_map']
    exact ⟨by simp, fun off lt => by simp [lt]⟩
  · obtain ⟨e, he, reads⟩ := starts
    obtain ⟨⟨x, hx, choice⟩, alone⟩ := wireByte_of_readFrom (lastPos_eq_some he reads later) h off
    have written : ∀ x ∈ writesTo h off (window id i s.events), ∃ k, i < k ∧ s.events[k]? = some (.bufWrite h off x) ∧
        ∀ j st, i < j → j < k → s.events[j]? ≠ some (.complete id st) := fun x hx => mem_window (mem_writesTo.1 hx)
    rw [wireChoices, readFrom, lastPos_eq_some he reads later] at choice
    refine ⟨⟨x, hx, (List.mem_cons.1 choice).imp_right (written x)⟩, fun none => alone ?_⟩
    exact List.eq_nil_iff_forall_not_mem.2 fun y hy => none y (written y hy)

end Sys2Proof.Machine
end

section
/-!
The statements about memory: host addresses that are not admitted (R81, I5), the buffers a successful ENABLE allocates
(R210-R212), and the submission the bus accepts with the bytes it carries (R93, R95, R247, R248).
-/

namespace Sys2Proof.Machine

variable {s : State}

/-! ### Host addresses that are not admitted -/

/-- The model's test of a range is exactly that no absent range has an address in common with it (I5). -/
theorem hostAdmits_iff (e : Env) (a len : Nat) : hostAdmits e a len = true ↔ Admitted e a len := by
  rw [hostAdmits, List.all_eq_true, Admitted]
  refine forall₂_congr fun g _ => ?_
  rw [decide_eq_true_iff]
  constructor
  · intro apart x low high common
    omega
  · intro none
    by_contra meet
    exact none (max g.1 a) (by omega) (by omega) (by omega)

/-- The PACK command of each format packs in that format (R150-R152). -/
theorem exec_packInstr (b : Bpp) (h : Handle) (s : State) : exec (packInstr b h) s = packStep b h s := by
  have packs : exec (packInstr b h) s = packCommand b h s := by cases b <;> rfl
  exact packs.trans (dif_pos h.isLt)

theorem packStep_absent {b : Bpp} {h : Handle} (pass : packCheck b h s = none)
    (absent : ¬ Admitted s.env (packArgs s).src (4 * (packArgs s).n)) : packStep b h s = .fault .hostReadStuck := by
  rw [← hostAdmits_iff] at absent
  rw [packStep, pass]
  exact if_neg absent

theorem submitLine_absent (absent : ¬ Admitted s.env (s.sub.src + s.sub.y * s.sub.pitch) (4 * s.sub.w)) :
    submitLine s = .fault .hostReadStuck :=
  if_neg (mt (hostAdmits_iff ..).1 absent)

theorem execSubmit_of_line (line : s.hph = .sbLine) : execSubmit s = submitLine s := by
  rw [execSubmit, line]

/-- Settles O20: both steps test the range of their source before they read it. -/
theorem absentSourceIsStuck : Obligations.AbsentSourceIsStuck := by
  unfold Obligations.AbsentSourceIsStuck
  refine ⟨fun b h s pass absent => ?_, fun s line absent => ?_⟩
  · exact (exec_packInstr b h s).trans (packStep_absent pass absent)
  · exact (execSubmit_of_line line).trans (submitLine_absent absent)

/-! ### ENABLE -/

theorem allocated_buf (size born : Nat) (h : Handle) : (Pool.allocated size born).buf h = Buffer.fresh size born := by
  simp [Pool.buf, Pool.allocated]

/-- Every byte of a buffer not written since its allocation is the allocation's draw (R85, I4). -/
theorem bufRead_of_fresh {h : Handle} {size born : Nat} (fresh : s.pool.buf h = Buffer.fresh size born) (off : Nat) :
    bufRead s h off = Config.allocByte s.env.epoch born h off := by
  rw [bufRead, fresh]
  rfl

section
variable (running : s.stream.eng ≠ .running) (draining : s.stream.eng ≠ .draining)
include running draining

theorem execEnable_unconfigured (none : s.stream.bpp = none ∨ s.stream.bufSize = 0) :
    execEnable s = .next (finish .errState s) := by
  rw [execEnable, if_neg running, if_neg draining, if_pos none]

variable (bpp : s.stream.bpp ≠ none) (size : s.stream.bufSize ≠ 0)
include bpp size

theorem execEnable_nomem (alloc : s.env.ans.alloc = .nomem) :
    execEnable s = .next (finish .errNomem (emit (.alloc .nomem) s)) := by
  rw [execEnable, if_neg running, if_neg draining, if_neg (not_or.2 ⟨bpp, size⟩), alloc]

theorem execEnable_ok (alloc : s.env.ans.alloc = .ok) :
    execEnable s = .next (finish .ok (startStream s.events.length (emit (.alloc .ok) s))) := by
  rw [execEnable, if_neg running, if_neg draining, if_neg (not_or.2 ⟨bpp, size⟩), alloc]

end

/-- Settles O28: ENABLE's tests in their order, and the pool that a successful allocation leaves. -/
theorem enableOutcomes : Obligations.EnableOutcomes := by
  unfold Obligations.EnableOutcomes
  refine fun s => ⟨fun running => ?_, fun draining => ?_, execEnable_unconfigured, execEnable_nomem,
    fun running draining bpp size alloc => ?_⟩
  · exact if_pos running
  · have running : s.stream.eng ≠ .running := by rw [draining]; decide
    exact (if_neg running).trans (if_pos draining)
  · refine ⟨_, execEnable_ok running draining bpp size alloc, rfl, rfl, rfl, rfl, rfl, fun h => ?_, rfl⟩
    have fresh := allocated_buf s.stream.bufSize s.events.length h
    exact ⟨congrArg Buffer.size fresh, congrArg Buffer.inFlight fresh, bufRead_of_fresh fresh⟩

/-! ### The accepted submission -/

/-- The Worker's submission, MAIN or companion, where the bus accepts it (R247, R248). -/
theorem workerStep_accepted {k : XferKind} {n : Nat} {p : WorkerPhase} (turn : Submitting s k n p)
    (ok : s.env.ans.submit = .ok) : workerStep s = .next (accepted k n p s) := by
  have accepts : submission k n p s = accepted k n p s := if_pos ok
  cases turn with
  | main phase => rw [workerStep, phase, ← accepts]; rfl
  | zlp phase => rw [workerStep, phase, ← accepts]; rfl

/-- Settles O39: each kind of submission is `accepted` with its length and its next phase. -/
theorem submissionAccepted : Obligations.SubmissionAccepted := by
  unfold Obligations.SubmissionAccepted
  exact fun s ok => ⟨fun phase => workerStep_accepted (.main phase) ok, fun phase => workerStep_accepted (.zlp phase) ok⟩

/-- What the history tells of a buffer is what the buffer holds (R93, R96). -/
theorem dataAfter_of_told {h : Handle} (told : Told s.events h (s.pool.buf h)) (off : Nat) :
    dataAfter s.env.epoch h off s.events = bufRead s h off := by
  obtain ⟨allocated, bytes⟩ := told
  rw [dataAfter, bufRead, allocated, bytes]
  rfl

/-- A transfer whose submission is the last event carries the bytes the events before it left in the buffer: no write
races with it yet (R93). -/
theorem wireByte_of_last {id : Nat} {es : List Event} {e : Event} (events : s.events = es ++ [e])
    (starts : startsReading id e = true) (h : Handle) (off : Nat) :
    wireByte s id h off = some (dataAfter s.env.epoch h off es) := by
  have read : readFrom id s.events = some es.length := by rw [events, readFrom, lastPos_concat, if_pos starts]
  have unraced : window id es.length s.events = [] := by simp [window, events]
  obtain ⟨-, alone⟩ := wireByte_of_readFrom read h off
  rw [alone (by rw [unraced]; rfl), events, List.take_left]

/-- Settles O58: the acceptance is the last event, and the history before it tells what the buffer holds. -/
theorem acceptedTransferCarriesBuffer : Obligations.AcceptedTransferCarriesBuffer := by
  unfold Obligations.AcceptedTransferCarriesBuffer
  intro s t inv tells phase ok e off _
  rw [workerStep_accepted (.main phase) ok] at e
  cases e
  obtain ⟨four, -⟩ := inv.engine.four_of_busy (.inl (by rw [phase]; decide))
  rw [wireByte_of_last (accepted_events ..) (by simp [startsReading]), accepted_env]
  exact congrArg some (dataAfter_of_told (tells four s.worker.cur) off)

end Sys2Proof.Machine
end

section
/-!
The command words (R110-R115), the lines of the host's program (R118, R119), and the mode that NEGOTIATE accepts
(R117, R179-R182, R186).
-/

namespace Sys2Proof

/-! ### The fields of a command word as numbers -/

theorem fieldOpc_toNat (w : Word) : (fieldOpc w).toNat = w.toNat % 256 := by
  rw [fieldOpc, BitVec.extractLsb'_toNat, Nat.shiftRight_zero]

theorem fieldRsvN_eq_zero_iff (w : Word) : fieldRsvN w = 0 ↔ w.toNat / 256 = 0 := by
  have high : w.toNat / 256 < 2 ^ 24 := by have := w.isLt; omega
  rw [← BitVec.toNat_inj, fieldRsvN, BitVec.extractLsb'_toNat, Nat.shiftRight_eq_div_pow, Nat.mod_eq_of_lt high]
  rfl

theorem fieldRsvH_eq_zero_iff (w : Word) : fieldRsvH w = 0 ↔ w.toNat / 1024 = 0 := by
  have high : w.toNat / 1024 < 2 ^ 22 := by have := w.isLt; omega
  rw [← BitVec.toNat_inj, fieldRsvH, BitVec.extractLsb'_toNat, Nat.shiftRight_eq_div_pow, Nat.mod_eq_of_lt high]
  rfl

theorem fieldH_lt (w : Word) : fieldH w < 4 := (w.extractLsb' 8 2).isLt

/-- A word of format N without reserved bits is its opcode (R111). -/
theorem ofNat_of_fieldOpc {w : Word} (rsv : fieldRsvN w = 0) : BitVec.ofNat 32 (fieldOpc w).toNat = w := by
  rw [fieldRsvN_eq_zero_iff] at rsv
  apply BitVec.eq_of_toNat_eq
  rw [BitVec.toNat_ofNat, fieldOpc_toNat]
  omega

/-- A word of format H without reserved bits is its opcode and its handle (R112). -/
theorem encodeH_of_fields {w : Word} (rsv : fieldRsvH w = 0) : encodeH (fieldOpc w).toNat (fieldH w) = w := by
  rw [fieldRsvH_eq_zero_iff] at rsv
  have opc := (fieldOpc w).isLt
  have handle := fieldH_lt w
  have parts : fieldH w <<< 8 + (fieldOpc w).toNat = w.toNat := by
    rw [fieldOpc_toNat, fieldH, BitVec.extractLsb'_toNat, Nat.shiftLeft_eq, Nat.shiftRight_eq_div_pow]
    omega
  apply BitVec.eq_of_toNat_eq
  rw [encodeH, BitVec.toNat_or, Nat.or_comm, BitVec.toNat_ofNat, BitVec.toNat_ofNat,
    Nat.mod_eq_of_lt (by omega), Nat.mod_eq_of_lt (by omega), ← Nat.shiftLeft_add_eq_or_of_lt opc, parts]

/-! ### What a word decodes to -/

/-- The opcodes of the map R113 whose words have format H. -/
def opcodesH : List Nat := [0x01, 0x02, 0x03]

/-- The opcodes of the map R113 whose words have format N. -/
def opcodesN : List Nat := [0x10, 0x11, 0x12, 0x20, 0x21, 0x22, 0x23, 0x30]

/-- What `decode` makes of a word, by its opcode (R111-R114). -/
inductive Decoding (w : Word) : Prop where
  | unknown (opc : w.toNat % 256 ∉ opcodesH ++ opcodesN) (decoded : decode w = .error .illegalOpcode)
  | formatH (i : Nat → Instr) (opc : w.toNat % 256 ∈ opcodesH) (decoded : decode w = decodeH w i)
      (wf : ∀ h < 4, (i h).wellFormed = true) (word : ∀ h, encode (i h) = encodeH (w.toNat % 256) h)
  | formatN (i : Instr) (opc : w.toNat % 256 ∈ opcodesN) (decoded : decode w = decodeN w i)
      (wf : i.wellFormed = true) (word : encode i = BitVec.ofNat 32 (w.toNat % 256))

/-- Each opcode's branch of `decode`, and every other opcode's (R113, R114). -/
theorem decoding (w : Word) : Decoding w := by
  have decoded : decode w = decode w := rfl
  conv_rhs at decoded => rw [decode, fieldOpc_toNat]
  split at decoded
  case h_1 opc | h_2 opc | h_3 opc =>
    refine .formatH _ (by rw [opc]; decide) decoded (fun h hh => decide_eq_true hh) (by rw [opc]; exact fun _ => rfl)
  case h_12 =>
    refine .unknown (fun known => ?_) decoded
    simp only [opcodesH, opcodesN, List.cons_append, List.nil_append, List.mem_cons, List.not_mem_nil, or_false] at known
    tauto
  all_goals
    rename_i opc
    exact .formatN _ (by rw [opc]; decide) decoded rfl (by rw [opc]; rfl)

theorem decodeH_eq_ok {w : Word} {i : Nat → Instr} {j : Instr} :
    decodeH w i = .ok j ↔ fieldRsvH w = 0 ∧ i (fieldH w) = j := by
  unfold decodeH
  split
  case isTrue rsv => simp [rsv]
  case isFalse rsv => exact iff_of_false nofun (not_and_of_not_left _ rsv)

theorem decodeN_eq_ok {w : Word} {i j : Instr} : decodeN w i = .ok j ↔ fieldRsvN w = 0 ∧ i = j := by
  unfold decodeN
  split
  case isTrue rsv => simp [rsv]
  case isFalse rsv => exact iff_of_false nofun (not_and_of_not_left _ rsv)

/-- A word that decodes is the word of a well-formed command (R111-R113). -/
theorem encode_decode {w : Word} {i : Instr} (h : decode w = .ok i) : i.wellFormed = true ∧ encode i = w := by
  cases decoding w with
  | unknown _ decoded => rw [decoded] at h; nomatch h
  | formatH f _ decoded wf word =>
    obtain ⟨rsv, rfl⟩ := decodeH_eq_ok.1 (decoded.symm.trans h)
    refine ⟨wf _ (fieldH_lt w), ?_⟩
    rw [word, ← fieldOpc_toNat, encodeH_of_fields rsv]
  | formatN f _ decoded wf word =>
    obtain ⟨rsv, rfl⟩ := decodeN_eq_ok.1 (decoded.symm.trans h)
    refine ⟨wf, ?_⟩
    rw [word, ← fieldOpc_toNat, ofNat_of_fieldOpc rsv]

/-- Settles O1: `decode_encode` on the commands, and on the words their fields, opcode by opcode. -/
theorem decodeEncodeAgree : Obligations.DecodeEncodeAgree := by
  unfold Obligations.DecodeEncodeAgree
  exact ⟨fun _ => decode_encode, fun _ _ => encode_decode⟩

/-- Settles O2: each number is an encoded command. -/
theorem opcodeMapDecodes : Obligations.OpcodeMapDecodes := by
  unfold Obligations.OpcodeMapDecodes
  exact ⟨by decide, decode_encode (i := .solve) rfl, decode_encode (i := .negotiate) rfl,
    decode_encode (i := .bwbpp) rfl, decode_encode (i := .configure) rfl, decode_encode (i := .enable) rfl,
    decode_encode (i := .disable) rfl, decode_encode (i := .submit) rfl, decode_encode (i := .clrsts) rfl⟩

end Sys2Proof

namespace Sys2Proof.Machine

/-! ### A word that names no command -/

theorem hostStep_of_illegal {s : State} (run : s.hph = .run) (word : decode s.latch.cmd = .error .illegalOpcode) :
    hostStep s = .next (finish .errIllegal s) := by
  simp [hostStep, runCommand, run, word]

/-- A word of a known opcode finishes ERR_RESERVED or runs its command, by whether a reserved bit is set. -/
theorem hostStep_of_format {s : State} {reserved clear : Prop} [Decidable clear] {i : Instr} (run : s.hph = .run)
    (word : decode s.latch.cmd = if clear then .ok i else .error .reservedBits) (bits : reserved ↔ ¬ clear) :
    (reserved → hostStep s = .next (finish .errReserved s)) ∧
    (¬ reserved → ∃ i, decode s.latch.cmd = .ok i ∧ hostStep s = exec i s) := by
  rw [bits, not_not]
  refine ⟨fun set => ?_, fun unset => ?_⟩
  · rw [if_neg set] at word
    simp [hostStep, runCommand, run, word]
  · rw [if_pos unset] at word
    exact ⟨i, word, hostStep_of_decode run word⟩

theorem opcodesH_lt : ∀ opc ∈ opcodesH, opc < 0x04 := by decide

theorem opcodesN_ge : ∀ opc ∈ opcodesN, ¬ opc < 0x04 := by decide

/-- Settles O3: by the format of the word's opcode, where a reserved bit set is a quotient other than 0. -/
theorem badWordsFinish : Obligations.BadWordsFinish := by
  unfold Obligations.BadWordsFinish
  intro s run w known reserved
  cases decoding s.latch.cmd with
  | unknown opc decoded =>
    exact ⟨fun _ => hostStep_of_illegal run decoded, fun h => absurd h opc, fun h => absurd h opc⟩
  | formatH i opc decoded =>
    have here : known := List.mem_append_left opcodesN opc
    have bits : reserved ↔ ¬ fieldRsvH s.latch.cmd = 0 := by
      rw [fieldRsvH_eq_zero_iff]
      exact iff_of_eq (if_pos (opcodesH_lt _ opc))
    obtain ⟨bad, command⟩ := hostStep_of_format run decoded bits
    exact ⟨absurd here, fun _ => bad, fun _ => command⟩
  | formatN i opc decoded =>
    have here : known := List.mem_append_right opcodesH opc
    have bits : reserved ↔ ¬ fieldRsvN s.latch.cmd = 0 := by
      rw [fieldRsvN_eq_zero_iff]
      exact iff_of_eq (if_neg (opcodesN_ge _ opc))
    obtain ⟨bad, command⟩ := hostStep_of_format run decoded bits
    exact ⟨absurd here, fun _ => bad, fun _ => command⟩

/-! ### Lines of the host's program -/

theorem portStep_of_cons {s : State} {l : HostLine} {rest : List HostLine} (prog : s.env.prog = l :: rest) :
    portStep s = if l = .wait ∧ s.status.busy = true then s
      else hostLine l { s with env := { s.env with prog := rest } } := by
  rw [portStep, prog]

/-- Settles O9: the port waits only at a `wait` while BUSY, and a `wait` it runs does nothing. -/
theorem programLines : Obligations.ProgramLines := by
  unfold Obligations.ProgramLines
  intro s l rest prog
  rw [portStep_of_cons prog]
  refine ⟨fun wait busy => if_pos ⟨wait, busy⟩, fun wait idle => ?_, fun other => if_neg fun h => other h.1⟩
  rw [if_neg (by simp [idle]), wait]
  rfl

/-- `t` is `s` but for the ARG and RES registers. -/
def SameButRegs (s t : State) : Prop := t = { s with regs := t.regs }

/-- `vs` have been written to the ARG registers from ARG0 on, and nothing else but the marks of R32 has changed. -/
structure WritesOperands (vs : List Word) (s t : State) : Prop where
  arg : ∀ k : Fin 4, t.regs.arg[k] = (vs[k.val]?).getD s.regs.arg[k]
  res : t.regs.res = s.regs.res
  others : SameButRegs s t

/-- The operand lines of a pseudo-instruction write its operands, whether a command runs or not (R32, R119). -/
theorem argLines_writesOperands (s : State) {vs : List Word} (fits : vs.length ≤ 4) :
    WritesOperands vs s ((argLines vs).foldl (fun u l => hostLine l u) s) := by
  induction vs using List.reverseRecOn with
  | nil => exact ⟨fun _ => rfl, rfl, rfl⟩
  | append_singleton vs v ih =>
    have small : vs.length < 4 := by simpa using fits
    obtain ⟨arg, res, others⟩ := ih small.le
    have lines : argLines (vs ++ [v]) = argLines vs ++ [.wr (BitVec.ofNat 5 (8 + vs.length)) v] := by
      simp [argLines, List.zipIdx_append]
    rw [lines, List.foldl_append]
    generalize (argLines vs).foldl (fun u l => hostLine l u) s = u at arg res others
    have writes : hostLine (.wr (BitVec.ofNat 5 (8 + vs.length)) v) u = writeArg ⟨vs.length, small⟩ v u := by
      rw [hostLine, ofIndex_arg ⟨vs.length, small⟩]
      rfl
    rw [List.foldl_cons, List.foldl_nil, writes]
    refine ⟨fun k => ?_, res, ?_⟩
    · rw [writeArg_arg, arg, List.getElem?_append]
      rcases lt_trichotomy k.val vs.length with lt | eq | gt
      · rw [if_neg (Fin.ne_of_lt lt), if_pos lt]
      · simp [Fin.ext_iff, eq]
      · rw [if_neg (Fin.ne_of_gt gt), if_neg gt.not_gt, List.getElem?_eq_none gt.le,
          List.getElem?_eq_none (Nat.le_sub_of_add_le' gt)]
    · rw [others]
      rfl

/-- Every pseudo-instruction writes its operands and then its word; the `wait` after it changes nothing (R118, R119). -/
theorem expand_foldl (p : Pseudo) (s : State) : (Pseudo.expand p).foldl (fun u l => hostLine l u) s
    = (commandLines (Pseudo.operands p) (Pseudo.word p)).foldl (fun u l => hostLine l u) s := by
  cases p <;> rfl

theorem operands_length (p : Pseudo) : (Pseudo.operands p).length ≤ 4 := by
  cases p <;> simp [Pseudo.operands]

/-- The CMD write latches the operands just written, where no command runs (R34, R119). -/
theorem commandLines_foldl {s : State} {vs : List Word} (fits : vs.length ≤ 4) (idle : s.status.busy = false)
    (w : Word) : ∃ u, WritesOperands vs s u ∧
      (commandLines vs w).foldl (fun u l => hostLine l u) s = startCommand w u := by
  have written := argLines_writesOperands s fits
  refine ⟨_, written, ?_⟩
  rw [commandLines, List.foldl_append]
  refine if_neg ?_
  rw [written.others]
  simp [idle]

/-- Settles O10: the operand lines write the registers that the CMD write then latches. -/
theorem pseudoStartsCommand : Obligations.PseudoStartsCommand := by
  unfold Obligations.PseudoStartsCommand
  intro p s _ idle t
  obtain ⟨u, ⟨arg, res, others⟩, e⟩ := commandLines_foldl (operands_length p) idle (Pseudo.word p)
  have e : t = startCommand (Pseudo.word p) u := (expand_foldl p s).trans e
  rw [e]
  refine ⟨rfl, rfl, rfl, arg, res, ?_, ?_, ?_, ?_⟩
  all_goals rw [others]; rfl

/-! ### The mode NEGOTIATE accepts -/

/-- The model's list of perturbations is the order of R179. -/
theorem deltas_eq : deltas = (List.range 21).map htDelta := by decide

/-- The perturbation NEGOTIATE accepts is the first of the list that meets R180 and R182, with its best candidate. -/
theorem firstAccepted_eq_find? (clk ht : Nat) [DecidablePred (TryAccepts clk ht)] (ks : List Nat) :
    firstAccepted clk ht (ks.map htDelta)
      = (ks.find? fun k => TryAccepts clk ht k).map fun k => (htDelta k, search (tryRequest clk ht k)) := by
  induction ks with
  | nil => rfl
  | cons k ks ih =>
    have request : adjustedRequest clk ht ((ht : Int) + htDelta k).toNat = tryRequest clk ht k := rfl
    rw [List.map_cons, firstAccepted, List.find?_cons, request, ih]
    dsimp only
    split_ifs with total zero low
    · have no : ¬ TryAccepts clk ht k := fun ⟨h, _, _⟩ => by omega
      simp [no]
    · have no : ¬ TryAccepts clk ht k := fun ⟨_, h, _⟩ => by omega
      simp [no]
    · have yes : TryAccepts clk ht k := ⟨by omega, by omega, low⟩
      simp [yes]
    · have no : ¬ TryAccepts clk ht k := fun ⟨_, _, h⟩ => low h
      simp [no]

/-- The first index of 0..20 that is accepted decides the perturbation (R179, R180). -/
theorem firstAccepted_deltas {clk ht k : Nat} (range : k ≤ 20) (accepts : TryAccepts clk ht k)
    (first : ∀ j < k, ¬ TryAccepts clk ht j) :
    firstAccepted clk ht deltas = some (htDelta k, search (tryRequest clk ht k)) := by
  classical
  have found : (List.range 21).find? (fun k => TryAccepts clk ht k) = some k :=
    List.find?_range_eq_some.2 ⟨by simpa using accepts, by simp; omega, by simpa using first⟩
  rw [deltas_eq, firstAccepted_eq_find?, found]
  rfl

/-! ### What the RES registers hold -/

theorem ResHolds.of_setRes {k : Fin 8} {n : Nat} {v : Word} (value : v.toNat = n) (s : State) :
    ResHolds k n (setRes k v s) := by
  rw [ResHolds, setRes_res, setRes_resWritten, if_pos rfl, if_pos rfl]
  exact ⟨value, rfl⟩

theorem ResHolds.of_ofNat (k : Fin 8) {n : Nat} (fits : n < 2 ^ 32) (s : State) :
    ResHolds k n (Machine.setRes k (BitVec.ofNat 32 n) s) :=
  .of_setRes (by rw [BitVec.toNat_ofNat, Nat.mod_eq_of_lt fits]) s

/-- A write of one RES register leaves what another holds (R33). -/
theorem ResHolds.setRes {k : Fin 8} {n : Nat} {s : State} (h : ResHolds k n s) {i : Fin 8} (ne : k ≠ i) (v : Word) :
    ResHolds k n (setRes i v s) := by
  rw [ResHolds, setRes_res, setRes_resWritten, if_neg ne, if_neg ne]
  exact h

theorem ReportsBest.setRes {best : Best} {s : State} (h : ReportsBest best s) {i : Fin 8} (high : 3 < i) (v : Word) :
    ReportsBest best (setRes i v s) := by
  obtain ⟨word, low, up, clock⟩ := h
  have ne {k : Fin 8} (hk : k ≤ 3) : k ≠ i := (hk.trans_lt high).ne
  exact ⟨word.setRes (ne (by decide)) v, low.setRes (ne (by decide)) v, up.setRes (ne (by decide)) v,
    clock.setRes (ne (by decide)) v⟩

theorem pllWord_toNat (c : PllConfig) : (pllWord c).toNat = (pllFields c).toNat := by
  rw [pllWord, BitVec.toNat_append, BitVec.toNat_ofNat, Nat.zero_mod, Nat.zero_shiftLeft, Nat.zero_or]

/-- What the search found fits the registers it is reported in (R117, R178). -/
theorem setPllRes_reportsBest {r : Nat} (h : 1 ≤ r) (s : State) :
    ReportsBest (search r) (setPllRes (search r) s) := by
  obtain ⟨c, legal, e⟩ := search_found h
  have err : (search r).err < 2 ^ 64 :=
    lt_of_le_of_lt (scan_err_le_best r candidates Best.initial) (show 2 ^ 64 - 1 < 2 ^ 64 by omega)
  have clock : (search r).a ≤ 500000000 * 10 ^ 6 := by rw [e]; exact legal.clock_range.2
  have word : (pllWord (search r).cfg).toNat = pllNumber (search r).cfg := by
    obtain ⟨hp, -, hm, -, -, -, hd, -⟩ := legal
    rw [pllWord_toNat, e]
    exact pllFields_toNat (show c.p < 256 by omega) (show c.m < 256 by omega) (show c.d < 256 by omega)
      (Nat.lt_succ_of_le (band_le_three _))
  refine ⟨?_, ?_, ?_, ?_⟩
  · exact (((ResHolds.of_setRes word s).setRes (by decide) _).setRes (by decide) _).setRes (by decide) _
  · exact ((ResHolds.of_setRes (BitVec.toNat_ofNat ..) _).setRes (by decide) _).setRes (by decide) _
  · exact (ResHolds.of_ofNat 2 (by omega) _).setRes (by decide) _
  · exact ResHolds.of_ofNat 3 (by omega) _

/-! ### NEGOTIATE -/

theorem SameButRegs.setRes {s t : State} (h : SameButRegs s t) (i : Fin 8) (v : Word) :
    SameButRegs s (setRes i v t) := by
  rw [SameButRegs] at h ⊢
  rw [h]
  rfl

theorem SameButRegs.setPllRes {s t : State} (h : SameButRegs s t) (best : Best) : SameButRegs s (setPllRes best t) :=
  (((h.setRes 0 _).setRes 1 _).setRes 2 _).setRes 3 _

/-- Beside the registers, a command that publishes a PLL configuration and finishes changes PLL_OUT and adds an event. -/
theorem SameButRegs.publish {s t : State} (h : SameButRegs s t) (o : PllOut) (e : Event) :
    finish .ok (emit e { t with pll := o })
      = { finish .ok s with regs := t.regs, pll := o, events := s.events ++ [e] } := by
  rw [h]
  rfl

/-- An accepting NEGOTIATE changes the registers, PLL_OUT and the history (R180, R181). -/
theorem finish_acceptMode (ht : Nat) (delta : Int) (best : Best) (bpp : Nat) (s : State) :
    finish .ok (acceptMode ht delta best bpp s) = { finish .ok s with
      regs := (acceptMode ht delta best bpp s).regs
      pll := { valid := true, cfg := best.cfg }
      events := s.events ++ [.pll best.cfg] } :=
  have same : SameButRegs s s := rfl
  (((((same.setPllRes best).setRes 4 _).setRes 5 _).setRes 6 _).setRes 7 _).publish _ _

/-- A perturbation moves htotal by at most 10 (R179). -/
theorem htDelta_range {k : Nat} (h : k ≤ 20) : -10 ≤ htDelta k ∧ htDelta k ≤ 10 := by
  unfold htDelta
  split_ifs <;> omega

/-- NEGOTIATE where its tests pass, a perturbation is accepted and the bandwidth allows a format (R180). -/
theorem execNegotiate_accepts {s : State} {delta : Int} {best : Best} (clk : argNat s 0 ≠ 0) (ht : argNat s 1 ≠ 0)
    (ceiling : argNat s 0 ≤ pClkCeilHz) (found : firstAccepted (argNat s 0) (argNat s 1) deltas = some (delta, best))
    (bpp : bandwidthBpp s.env.par (kHz best.a) (argClass s 2) ≠ 0) :
    execNegotiate s = .next (finish .ok (acceptMode (argNat s 1) delta best
      (bandwidthBpp s.env.par (kHz best.a) (argClass s 2)) s)) := by
  rw [execNegotiate]
  dsimp only
  rw [if_neg (not_or.2 ⟨clk, ht⟩), if_neg (Nat.not_lt.2 ceiling), found]
  exact if_neg bpp

theorem adjustedTotalWord_toNat {total : Nat} (fits : total < 2 ^ 32) : (adjustedTotalWord total).toNat = total := by
  rw [adjustedTotalWord, if_pos fits, BitVec.toNat_ofNat, Nat.mod_eq_of_lt fits]

/-- Every RES register after an accepting NEGOTIATE (R117, R180, R181). -/
theorem acceptMode_res (ht : Nat) {delta : Int} (small : -10 ≤ delta ∧ delta ≤ 10) {best : Best} {bpp : Nat}
    (legal : bpp ≤ 3) {s : State} (found : ReportsBest best (setPllRes best s)) :
    let t := acceptMode ht delta best bpp s
    ReportsBest best t ∧ ((ht : Int) + delta < 2 ^ 32 → ResHolds 4 ((ht : Int) + delta).toNat t) ∧
      ResHolds 5 bpp t ∧ t.regs.res[6].toInt = delta ∧ ResHolds 7 0 t ∧
      ∀ j : Fin 8, t.regs.resWritten[j] = true := by
  intro t
  have reports : ReportsBest best t :=
    (((found.setRes (by decide) _).setRes (by decide) _).setRes (by decide) _).setRes (by decide) _
  have total : ResHolds 4 (adjustedTotalWord ((ht : Int) + delta).toNat).toNat t :=
    (((ResHolds.of_setRes rfl _).setRes (by decide) _).setRes (by decide) _).setRes (by decide) _
  have bandwidth : ResHolds 5 bpp t :=
    ((ResHolds.of_ofNat 5 (by omega) _).setRes (by decide) _).setRes (by decide) _
  have perturbation : ResHolds 6 (BitVec.ofInt 32 delta).toNat t := (ResHolds.of_setRes rfl _).setRes (by decide) _
  have zero : ResHolds 7 0 t := ResHolds.of_setRes rfl _
  refine ⟨reports, fun fits => ?_, bandwidth, ?_, zero, fun j => ?_⟩
  · exact ⟨total.1.trans (adjustedTotalWord_toNat (by omega)), total.2⟩
  · have word : t.regs.res[6] = BitVec.ofInt 32 delta := BitVec.eq_of_toNat_eq perturbation.1
    refine (congrArg BitVec.toInt word).trans ?_
    exact BitVec.toInt_ofInt_eq_self (by decide) (by omega) (by omega)
  · obtain ⟨⟨-, res0⟩, ⟨-, res1⟩, ⟨-, res2⟩, ⟨-, res3⟩⟩ := reports
    exact match j with
      | 0 => res0 | 1 => res1 | 2 => res2 | 3 => res3 | 4 => total.2 | 5 => bandwidth.2 | 6 => perturbation.2
      | 7 => zero.2

theorem bandwidthBpp_le (par : Params) (khz : Nat) (cls : Fin 8) : bandwidthBpp par khz cls ≤ 3 := by
  unfold bandwidthBpp
  split_ifs
  · exact Nat.zero_le 3
  · exact Nat.min_le_left ..

/-- Settles O24: the order of R179 finds the first perturbation accepted, and `acceptMode` is all that is written. -/
theorem negotiateAccepts : Obligations.NegotiateAccepts := by
  unfold Obligations.NegotiateAccepts
  dsimp only
  intro s k clk ht ceiling range accepts first bpp
  have accepted := firstAccepted_deltas range accepts first
  obtain ⟨-, request, -⟩ := accepts
  have reports := setPllRes_reportsBest request s
  generalize search (tryRequest _ _ k) = best at accepted reports bpp ⊢
  obtain ⟨res0, res4, res5, res6, res7, written⟩ := acceptMode_res (argNat s 1) (htDelta_range range)
    (bandwidthBpp_le s.env.par (kHz best.a) (argClass s 2)) reports
  obtain ⟨arg, argWritten, -⟩ := acceptMode_keepsRegs (argNat s 1) (htDelta k) best
    (bandwidthBpp s.env.par (kHz best.a) (argClass s 2)) s
  exact ⟨_, execNegotiate_accepts clk ht ceiling accepted bpp, res0, res4, res5, res6, res7, written, arg, argWritten,
    finish_acceptMode ..⟩

end Sys2Proof.Machine
end

section
/-!
The PixelPacker's conversions and footprint (R140-R145).
-/

namespace Sys2Proof.Machine

/-! ### The footprint -/

/-- The footprint of a line reaches `maxOff` (R145). -/
theorem exists_eq_maxOff (base : Nat) {len : Nat} (nonempty : 0 < len) :
    ∃ i < len, base + (i ^^^ 4) = maxOff base len := by
  have below {i : Nat} (low : i % 8 < 4) : i ^^^ 4 = i + 4 := (xor_four i).trans (if_pos low)
  unfold maxOff
  dsimp only
  split_ifs with whole low
  · exact ⟨len - 5, by omega, by rw [below] <;> omega⟩
  · exact ⟨len - 1, by omega, by rw [below] <;> omega⟩
  · exact ⟨len - len % 8 + 3, by omega, by rw [below] <;> omega⟩

/-- An offset is written exactly when the byte placed there is in the stream: the placement is its own inverse. -/
theorem exists_xor_four_iff {base len o : Nat} (le : base ≤ o) :
    (∃ i < len, base + (i ^^^ 4) = o) ↔ (o - base) ^^^ 4 < len := by
  constructor
  · rintro ⟨i, lt, rfl⟩
    rwa [Nat.add_sub_cancel_left, Nat.xor_xor_cancel_right]
  · intro lt
    exact ⟨_, lt, by rw [Nat.xor_xor_cancel_right, Nat.add_sub_cancel' le]⟩

/-- Settles O16: which offsets are written is read off the inverse of the placement. -/
theorem footprintLargest : Obligations.FootprintLargest := by
  unfold Obligations.FootprintLargest
  intro base len nonempty
  refine ⟨exists_eq_maxOff base nonempty, fun i lt => xor_four_le_maxOff lt, fun o low high => ?_⟩
  dsimp only
  rw [exists_xor_four_iff low, xor_four]
  unfold maxOff at high
  dsimp only at high
  split_ifs at high ⊢ <;> omega

/-! ### The conversions -/

/-- A word that holds two fields one above the other is the OR of both, the upper one shifted. -/
theorem setWidth_append_eq_or {m n : Nat} (x : BitVec m) (y : BitVec n) :
    (x ++ y).setWidth 32 = (x.setWidth 32 <<< n) ||| y.setWidth 32 := by
  ext i hi
  by_cases low : i < n
  · simp [BitVec.getLsbD_append, low]
  · simp [BitVec.getLsbD_append, low, BitVec.getLsbD_of_ge y i (by omega)]

/-- A field in mask-and-shift form: `n` bits of the word, taken from bit `lo` and moved down to bit `k`. -/
theorem mask_shift_eq_extract (s : Word) (lo n k : Nat) (down : k ≤ lo) (fits : lo + n ≤ 32) :
    (s &&& ((BitVec.allOnes n).setWidth 32 <<< lo)) >>> (lo - k) = (s.extractLsb' lo n).setWidth 32 <<< k := by
  ext i hi
  by_cases low : i < k
  · have below : lo - k + i < lo := by omega
    simp [low, below]
  · have bit : lo - k + i = lo + (i - k) := by omega
    by_cases inside : i - k < n
    · have small : lo + (i - k) < 32 ∧ i - k < 32 := by omega
      simp [bit, low, inside, small]
    · simp [bit, low, inside]

/-- The 3-3-2 conversion in mask-and-shift form (R141). -/
theorem c332_setWidth (s : Word) : (c332 s).setWidth 32
    = ((s &&& 0x00E00000) >>> 16) ||| ((s &&& 0x0000E000) >>> 11) ||| ((s &&& 0x000000C0) >>> 6) := by
  have r : (s &&& 0x00E00000) >>> 16 = _ := mask_shift_eq_extract s 21 3 5 (by decide) (by decide)
  have g : (s &&& 0x0000E000) >>> 11 = _ := mask_shift_eq_extract s 13 3 2 (by decide) (by decide)
  have b : (s &&& 0x000000C0) >>> 6 = _ := mask_shift_eq_extract s 6 2 0 (by decide) (by decide)
  rw [r, g, b, c332, setWidth_append_eq_or, setWidth_append_eq_or, BitVec.shiftLeft_or_distrib,
    ← BitVec.shiftLeft_add, BitVec.shiftLeft_zero]

/-- The 5-6-5 conversion in mask-and-shift form (R142). -/
theorem c565_setWidth (s : Word) : (c565 s).setWidth 32
    = ((s &&& 0x00F80000) >>> 8) ||| ((s &&& 0x0000FC00) >>> 5) ||| ((s &&& 0x000000F8) >>> 3) := by
  have r : (s &&& 0x00F80000) >>> 8 = _ := mask_shift_eq_extract s 19 5 11 (by decide) (by decide)
  have g : (s &&& 0x0000FC00) >>> 5 = _ := mask_shift_eq_extract s 10 6 5 (by decide) (by decide)
  have b : (s &&& 0x000000F8) >>> 3 = _ := mask_shift_eq_extract s 3 5 0 (by decide) (by decide)
  rw [r, g, b, c565, setWidth_append_eq_or, setWidth_append_eq_or, BitVec.shiftLeft_or_distrib,
    ← BitVec.shiftLeft_add, BitVec.shiftLeft_zero]

/-- Bits 31:24 of a source pixel do not reach a field that ends below them. -/
theorem extractLsb'_color (s : Word) {lo n : Nat} (fits : lo + n ≤ 24) :
    (s &&& 0x00FFFFFF).extractLsb' lo n = s.extractLsb' lo n := by
  have mask : ∀ j < 24, (0x00FFFFFF : Word).getLsbD j = true := by decide
  ext i hi
  rw [BitVec.getElem_extractLsb', BitVec.getElem_extractLsb', BitVec.getLsbD_and, mask _ (by omega), Bool.and_true]

/-- Every format packs bits 23:0 of the pixel and nothing else (R140). -/
theorem packPixel_color (b : Bpp) (s : Word) : packPixel b (s &&& 0x00FFFFFF) = packPixel b s := by
  cases b <;> simp only [packPixel, c332, c565, extractLsb'_color, Nat.reduceAdd, Nat.reduceLeDiff]

/-- Settles O15: each conversion is the OR of its three fields, and each field is a mask and a shift. -/
theorem pixelConversions : Obligations.PixelConversions := by
  unfold Obligations.PixelConversions
  refine ⟨c332_setWidth, c565_setWidth, fun b s u same => ?_⟩
  rw [← packPixel_color, same, packPixel_color]

end Sys2Proof.Machine
end

section
/-!
Packing a scanline: a PACK command and a SUBMIT line step (R143-R152, R225).
-/

namespace Sys2Proof.Machine

variable {s t : State}

/-! ### The bytes of a scanline -/

/-- The bytes of one pixel stand in a row in the packed stream (R143). -/
theorem packPixel_eq_map (b : Bpp) (px : Nat → Word) (x : Nat) :
    packPixel b (px x) = (List.range b.toNat).map fun j => packedByte b px (x * b.toNat + j) := by
  cases b <;> simp [packPixel, packedByte, Bpp.toNat, List.range_succ, Nat.mul_add_div, Nat.mul_comm x]

/-- The packed stream is P[0], P[1], ... of R143. -/
theorem packedStream_eq_map (b : Bpp) (px : Nat → Word) (n : Nat) :
    packedStream b ((List.range n).map px) = (List.range (n * b.toNat)).map (packedByte b px) := by
  induction n with
  | zero => simp [packedStream]
  | succ n ih =>
    rw [packedStream] at ih
    rw [List.range_succ, List.map_append, packedStream, List.flatMap_append, ih, Nat.succ_mul, List.range_add,
      List.map_append]
    simp [packPixel_eq_map]

theorem placement_map_range (base m : Nat) (f : Nat → Byte) :
    placement base ((List.range m).map f) = (List.range m).map fun i => (base + (i ^^^ 4), f i) :=
  List.ext_getElem (by simp [placement]) fun i _ _ => by simp [placement, pSwz]

/-- What `packLine` writes: P[i] at `base + (i XOR 4)`, i ascending (R143, R144). -/
theorem placement_packedStream (b : Bpp) (e : Env) (base src n : Nat) :
    placement base (packedStream b (sourcePixels e src n))
      = (List.range (n * b.toNat)).map fun i => (base + (i ^^^ 4), packedByte b (linePixel e src) i) := by
  rw [← placement_map_range, ← packedStream_eq_map]
  rfl

/-! ### Buffers after a line -/

/-- A run of writes to distinct addresses leaves at each the byte written there. -/
theorem Memory.get_setAll_of_mem {ws : List (Nat × Byte)} (distinct : (ws.map (·.1)).Nodup) {a : Nat} {v : Byte}
    (mem : (a, v) ∈ ws) (m : Memory) : Memory.get (Memory.setAll m ws) a = some v := by
  induction ws generalizing m with
  | nil => nomatch mem
  | cons w ws ih =>
    obtain ⟨here, later⟩ := List.nodup_cons.1 distinct
    rcases List.mem_cons.1 mem with rfl | mem
    · have last : ∀ w ∈ ws, w.1 ≠ a := fun w hw e => here (List.mem_map.2 ⟨w, hw, e⟩)
      rw [Memory.setAll, Memory.get_setAll_of_notMem last, Memory.get_set_self]
    · exact ih later mem _

theorem bufRead_bufWrite_of_mem {h : Handle} {ws : List (Nat × Byte)} (distinct : (ws.map (·.1)).Nodup) {a : Nat}
    {v : Byte} (mem : (a, v) ∈ ws) : bufRead (bufWrite h ws s) h a = v := by
  simp [bufRead, Memory.get_setAll_of_mem distinct mem]

/-- A run of writes leaves every other byte of every buffer alone (R84). -/
theorem bufRead_bufWrite_of_notMem {h k : Handle} {ws : List (Nat × Byte)} {a : Nat}
    (other : k = h → ∀ w ∈ ws, w.1 ≠ a) : bufRead (bufWrite h ws s) k a = bufRead s k a := by
  by_cases hk : k = h
  · subst hk
    simp [bufRead, Memory.get_setAll_of_notMem (other rfl)]
  · simp [bufRead, buf_setBuf_of_ne hk]

/-- The bytes of a line go to distinct offsets (R144). -/
theorem placement_distinct (base : Nat) (f : Nat → Byte) (m : Nat) :
    (((List.range m).map fun i => (base + (i ^^^ 4), f i)).map (·.1)).Nodup := by
  rw [List.map_map]
  refine List.nodup_range.map fun i j same => ?_
  exact Nat.xor_left_inj.1 (Nat.add_left_cancel same)

/-- Packing a line does what R143 and R144 say, and no more. -/
theorem packLine_writesLine (b : Bpp) (h : Handle) (base src n : Nat) (s : State) :
    WritesLine b h base src n s (packLine b h base src n s) := by
  rw [packLine, placement_packedStream]
  refine ⟨fun i lt => ?_, fun k off other => ?_, ?_, rfl, fun k => ?_⟩
  · exact bufRead_bufWrite_of_mem (placement_distinct ..) (List.mem_map.2 ⟨i, List.mem_range.2 lt, rfl⟩)
  · refine bufRead_bufWrite_of_notMem fun hk => List.forall_mem_map.2 fun i lt e => ?_
    exact other ⟨hk, i, List.mem_range.1 lt, e.symm⟩
  · rw [bufWrite_events, List.map_map]
    rfl
  · by_cases hk : k = h <;> simp [buf_setBuf, hk]

/-- What a line has done is read off the pool, the history and the reset count. -/
theorem WritesLine.congr {b : Bpp} {h : Handle} {base src n : Nat} {u : State} (line : WritesLine b h base src n s t)
    (pool : u.pool = t.pool) (events : u.events = t.events) (epoch : u.env.epoch = t.env.epoch) :
    WritesLine b h base src n s u := by
  have read : ∀ k off, bufRead u k off = bufRead t k off := fun k off => by rw [bufRead, bufRead, pool, epoch]
  simpa only [WritesLine, read, pool, events] using line

/-! ### PACK -/

variable {b : Bpp} {h : Handle}

theorem packStep_refused {code : Code} (check : packCheck b h s = some code) :
    packStep b h s = .next (finish code s) := by
  rw [packStep, check]

theorem packStep_admitted (pass : packCheck b h s = none)
    (admitted : Admitted s.env (packArgs s).src (4 * (packArgs s).n)) :
    packStep b h s = .next (finish .ok (setRes 0 (BitVec.ofNat 32 ((packArgs s).n * b.toNat))
      (packLine b h (packArgs s).off (packArgs s).src (packArgs s).n s))) := by
  rw [packStep, pass]
  exact if_pos ((hostAdmits_iff ..).2 admitted)

/-- `maxOff` decides whether some byte of a line leaves a buffer of `size` bytes (R145, R146). -/
theorem maxOff_leaves_iff {base len size : Nat} :
    len ≠ 0 ∧ size ≤ maxOff base len ↔ ∃ i < len, size ≤ base + (i ^^^ 4) := by
  constructor
  · rintro ⟨nonempty, le⟩
    obtain ⟨i, lt, last⟩ := exists_eq_maxOff base (Nat.pos_of_ne_zero nonempty)
    exact ⟨i, lt, last ▸ le⟩
  · rintro ⟨i, lt, le⟩
    exact ⟨by omega, le.trans (xor_four_le_maxOff lt)⟩

section
variable (four : s.pool.nb = 4)
include four

theorem packCheck_unaligned (unaligned : (packArgs s).src % 4 ≠ 0) : packCheck b h s = some .errAlign :=
  (if_neg (not_not.2 four)).trans (if_pos unaligned)

variable (aligned : (packArgs s).src % 4 = 0)
include aligned

theorem packCheck_pastEnd (pixels : (packArgs s).n ≠ 0) (past : 2 ^ 32 < (packArgs s).src + 4 * (packArgs s).n) :
    packCheck b h s = some .errBounds :=
  (if_neg (not_not.2 four)).trans ((if_neg (not_not.2 aligned)).trans (if_pos ⟨pixels, past⟩))

variable (reads : (packArgs s).n = 0 ∨ (packArgs s).src + 4 * (packArgs s).n ≤ 2 ^ 32)
include reads

/-- Where the first three checks of R146 pass, the last two decide. -/
theorem packCheck_of_reads : packCheck b h s
    = if 2 ^ 32 - 1 < (packArgs s).n * b.toNat then some .errBounds
      else if (packArgs s).n * b.toNat ≠ 0
        ∧ (s.pool.buf h).size ≤ maxOff (packArgs s).off ((packArgs s).n * b.toNat) then some .errBounds
      else none :=
  (if_neg (not_not.2 four)).trans ((if_neg (not_not.2 aligned)).trans (if_neg fun ⟨pixels, past⟩ =>
    reads.elim pixels (Nat.not_le.2 past)))

theorem packCheck_leaves (leaves : 2 ^ 32 - 1 < (packArgs s).n * b.toNat ∨
      ∃ i < (packArgs s).n * b.toNat, (s.pool.buf h).size ≤ (packArgs s).off + (i ^^^ 4)) :
    packCheck b h s = some .errBounds := by
  rw [packCheck_of_reads four aligned reads]
  rw [← maxOff_leaves_iff] at leaves
  split_ifs with long outside
  · rfl
  · rfl
  · exact absurd leaves (not_or.2 ⟨long, outside⟩)

theorem packCheck_passes (short : (packArgs s).n * b.toNat ≤ 2 ^ 32 - 1)
    (fits : ∀ i < (packArgs s).n * b.toNat, (packArgs s).off + (i ^^^ 4) < (s.pool.buf h).size) :
    packCheck b h s = none := by
  rw [packCheck_of_reads four aligned reads, if_neg (Nat.not_lt.2 short)]
  refine if_neg (mt maxOff_leaves_iff.1 ?_)
  rintro ⟨i, lt, le⟩
  exact Nat.not_le.2 (fits i lt) le

end

/-- Settles O19: each check is the first of R146 that fails, and its code is all the command leaves. -/
theorem packChecksInOrder : Obligations.PackChecksInOrder := by
  unfold Obligations.PackChecksInOrder
  intro b h s src off n
  rw [exec_packInstr]
  refine ⟨fun no => packStep_refused (if_pos no), fun four unaligned => ?_, fun four aligned pixels past => ?_,
    fun four aligned reads leaves => ?_⟩
  · exact packStep_refused (packCheck_unaligned four unaligned)
  · exact packStep_refused (packCheck_pastEnd four aligned pixels past)
  · exact packStep_refused (packCheck_leaves four aligned reads leaves)

/-- Settles O18: the PACK is a line written, RES0 and `finish`. -/
theorem packWritesScanline : Obligations.PackWritesScanline := by
  unfold Obligations.PackWritesScanline
  intro b h s src off n four aligned reads short fits admitted
  have pass : packCheck b h s = none := packCheck_passes four aligned reads short fits
  rw [exec_packInstr, packStep_admitted pass admitted]
  have line : WritesLine b h off src n s (packLine b h off src n s) := packLine_writesLine b h off src n s
  have res0 := ResHolds.of_ofNat 0 (show n * b.toNat < 2 ^ 32 by omega) (packLine b h off src n s)
  have regs : KeepsRegs [0] s (packLine b h off src n s) := .of_regs rfl
  exact ⟨_, rfl, line.congr rfl rfl rfl, res0, (regs.setRes (by simp) _).finish .ok, rfl⟩

/-! ### SUBMIT's line step -/

theorem submitLine_admitted (admitted : Admitted s.env (s.sub.src + s.sub.y * s.sub.pitch) (4 * s.sub.w)) :
    submitLine s = .next { packLine s.sub.bpp s.sub.h (s.sub.y * (s.sub.w * s.sub.bpp.toNat))
        (s.sub.src + s.sub.y * s.sub.pitch) s.sub.w s with
      sub := { s.sub with y := s.sub.y + 1 }
      hph := if s.sub.y + 1 = s.sub.hgt then .sbCommit else s.hph } :=
  if_pos ((hostAdmits_iff ..).2 admitted)

/-- Settles O33: the line step is a line written, its number and its phase. -/
theorem submitLineStep : Obligations.SubmitLineStep := by
  unfold Obligations.SubmitLineStep
  intro s phase c src admitted
  have answers : exec .submit s = _ := (execSubmit_of_line phase).trans (submitLine_admitted admitted)
  refine ⟨_, answers, (packLine_writesLine ..).congr rfl rfl rfl, ?_⟩
  rw [phase]
  rfl

end Sys2Proof.Machine
end

section
/-!
Every step but a reset answers a next state (R149, R217, R220, R221, R287).
-/

namespace Sys2Proof.Machine

variable {s t : State}

/-- Where the model stops: at an absent source byte (I5), at a selection without a buffer (R220, R221), at a running
stream without a format (R149). -/
inductive Stop (s : State) : Fault → Prop
  | absent (range : s.env.absent ≠ []) : Stop s .hostReadStuck
  | noneToEncode (running : s.stream.eng = .running) (none : selectForEncode s.pool = none) : Stop s .poolCorrupt
  | noneToSend (enabled : s.stream.enabled = true) (none : selectForTransmit s.pool = none) : Stop s .poolCorrupt
  | noFormat (running : s.stream.eng = .running) (none : s.stream.bpp = none) : Stop s .bppContract

/-- A next state, or a stop that names its ground. -/
inductive Answer (s : State) : Result → Prop
  | next (t : State) : Answer s (.next t)
  | stops {f : Fault} (ground : Stop s f) : Answer s (.fault f)

theorem Answer.of_eq_next {r : Result} (e : r = .next t) : Answer s r := e ▸ .next t

/-! ### The commands -/

theorem absent_of_not_admitted {e : Env} {a len : Nat} (no : ¬ Admitted e a len) : e.absent ≠ [] :=
  fun nil => no (by simp [Admitted, nil])

theorem packStep_answers (b : Bpp) (h : Handle) (s : State) : Answer s (packStep b h s) := by
  cases check : packCheck b h s with
  | some code => exact packStep_refused check ▸ .next _
  | none =>
    by_cases admitted : Admitted s.env (packArgs s).src (4 * (packArgs s).n)
    · exact packStep_admitted check admitted ▸ .next _
    · exact packStep_absent check admitted ▸ .stops (.absent (absent_of_not_admitted admitted))

theorem packCommand_answers (b : Bpp) (h : Nat) (s : State) : Answer s (packCommand b h s) := by
  rw [packCommand]
  split_ifs with fits
  · exact packStep_answers b ⟨h, fits⟩ s
  · exact .next _

theorem submitLine_answers (s : State) : Answer s (submitLine s) := by
  by_cases admitted : Admitted s.env (s.sub.src + s.sub.y * s.sub.pitch) (4 * s.sub.w)
  · exact submitLine_admitted admitted ▸ .next _
  · exact submitLine_absent admitted ▸ .stops (.absent (absent_of_not_admitted admitted))

theorem submitSelect_answers (s : State) : Answer s (submitSelect s) := by
  rcases submitSelect_cases (s := s) rfl with ⟨c, e, -⟩ | ⟨-, b, bpp, -, -, -, e⟩ | ⟨running, none, e⟩ |
    ⟨running, none, e⟩ <;> rw [e]
  · exact .next _
  · exact .next _
  · exact .stops (.noneToEncode running none)
  · exact .stops (.noFormat running none)

theorem execSubmit_answers (s : State) : Answer s (execSubmit s) := by
  rcases execSubmit_cases (s := s) rfl with ⟨-, e⟩ | ⟨-, e⟩ | ⟨-, -, e⟩ <;> rw [← e]
  · exact submitLine_answers s
  · exact .next _
  · exact submitSelect_answers s

/-- No command is refused, and one that stops says why. -/
theorem exec_answers (i : Instr) (s : State) : Answer s (exec i s) := by
  cases i with
  | pack332 h => exact packCommand_answers .one h s
  | pack565 h => exact packCommand_answers .two h s
  | pack888 h => exact packCommand_answers .three h s
  | solve => rcases execSolve_cases (s := s) rfl with e | ⟨best, e⟩ | e <;> exact .of_eq_next e
  | negotiate =>
    rcases execNegotiate_cases (s := s) rfl with e | e | ⟨delta, best, bpp, e⟩ <;>
      exact .of_eq_next e
  | configure => rcases execConfigure_cases (s := s) rfl with e | e | ⟨b, -, e⟩ <;> exact .of_eq_next e
  | enable =>
    rcases execEnable_cases (s := s) rfl with ⟨-, e⟩ | e | e | ⟨-, -, -, -, e⟩ <;>
      exact .of_eq_next e
  | disable =>
    rcases execDisable_cases (s := s) rfl with ⟨-, e⟩ | ⟨-, e⟩ | ⟨-, e⟩ | ⟨-, -, -, e⟩ <;>
      exact .of_eq_next e
  | submit => exact execSubmit_answers s
  | bwbpp | clrsts => exact .next _

/-! ### The agents -/

theorem hostStep_answers (s : State) : Answer s (hostStep s) := by
  rcases hostStep_cases (s := s) rfl with ⟨-, e⟩ | ⟨-, e⟩ | ⟨-, e | e | ⟨i, -, e⟩⟩ | ⟨-, e⟩
  · exact .of_eq_next e
  · exact .of_eq_next e
  · exact .of_eq_next e
  · exact .of_eq_next e
  · exact e ▸ exec_answers i s
  · exact e ▸ exec_answers .submit s

theorem workerSelect_answers (s : State) : Answer s (workerSelect s) := by
  rcases workerSelect_cases (s := s) rfl with ⟨-, e⟩ | ⟨enabled, none, e⟩ | ⟨-, b, -, e⟩ <;> rw [e]
  · exact .next _
  · exact .stops (.noneToSend enabled none)
  · exact .next _

theorem workerStep_answers (s : State) : Answer s (workerStep s) := by
  unfold workerStep
  cases s.worker.wph with
  | select => exact workerSelect_answers s
  | _ => exact .next _

/-- Of the agents' steps only the reset is ever refused (R341). -/
theorem agentStep_answers {a : Agent} (other : a ≠ .reset) (s : State) : Answer s (agentStep a s) := by
  cases a with
  | host => exact hostStep_answers s
  | worker => exact workerStep_answers s
  | reset => exact absurd rfl other
  | port | memory | bus | drain => exact .next _

/-! ### What the invariant excludes -/

/-- Where the pool stands, some queue holds a buffer (R50). -/
theorem PoolInv.handles_ne_nil (h : PoolInv s) (four : s.pool.nb = 4) : s.pool.handles ≠ [] := by
  intro nil
  simpa [nil] using h.one_queue four

/-- From the invariant the one ground left is an absent source byte (R149, R220, R221). -/
theorem Stop.absent_of_inv {f : Fault} (ground : Stop s f) (h : Inv s) :
    f = .hostReadStuck ∧ s.env.absent ≠ [] := by
  have buffer (running : s.stream.eng = .running) : s.pool.handles ≠ [] :=
    h.pool.handles_ne_nil (h.engine.four_of_running running)
  cases ground with
  | absent range => exact ⟨rfl, range⟩
  | noneToEncode running none => simpa [none] using selectForEncode_isSome (buffer running)
  | noneToSend enabled none => simpa [none] using selectForTransmit_isSome (buffer (h.engine.enabled_iff.1 enabled))
  | noFormat running none => exact absurd none (h.engine.configured (h.engine.four_of_running running))

theorem Inv.beginTurn (h : Inv s) : Inv (beginTurn s) := h.congr rfl rfl rfl rfl rfl rfl rfl rfl h.host_memory

/-- A reset is taken or refused, and is no fault (R340, R341). -/
theorem resetTurn_ne_fault (f : Fault) (s : State) : resetTurn s ≠ .fault f := by
  unfold resetTurn
  split_ifs <;> nofun

/-- A turn other than a reset is answered in the state whose turn has begun (R18, R19). -/
theorem step_answers (other : (nextTurn s.env).who ≠ .reset) : Answer (beginTurn s) (step s) :=
  agentStep_answers other (beginTurn s)

/-- The one fault a step from the invariant can be (I5). -/
theorem step_fault {f : Fault} (h : Inv s) (e : step s = .fault f) : f = .hostReadStuck ∧ s.env.absent ≠ [] := by
  by_cases reset : (nextTurn s.env).who = .reset
  · exact absurd ((step_of_who reset).symm.trans e) (resetTurn_ne_fault f _)
  · have answer := step_answers reset
    rw [e] at answer
    cases answer with
    | stops ground => exact ground.absent_of_inv h.beginTurn

/-- Settles O53: every agent's step answers or stops on a named ground, and the invariant leaves one ground. -/
theorem stepAlwaysAnswers : Obligations.StepAlwaysAnswers := by
  unfold Obligations.StepAlwaysAnswers
  refine ⟨fun s h => ⟨fun e => ?_, fun e => ?_⟩, fun s h none other => ?_, fun i s r e => ?_⟩
  · nomatch (step_fault h e).1
  · nomatch (step_fault h e).1
  · have answer := step_answers other
    generalize e : step s = r at answer
    cases answer with
    | next t => exact ⟨t, rfl⟩
    | stops => exact absurd none (step_fault h e).2
  · have answer := exec_answers i s
    rw [e] at answer
    nomatch answer

end Sys2Proof.Machine
end

section
/-!
The clock search returns the first triple of least error (R175), and what SOLVE, NEGOTIATE and BWBPP report (R176,
R180, R185).
-/

namespace Sys2Proof.Machine

/-! ### The first of the least errors -/

theorem absDiff_eq_natAbs (a b : Nat) : absDiff a b = ((a : Int) - b).natAbs := by
  unfold absDiff
  omega

/-- The scan's error of a candidate is err of R173. -/
theorem Candidate.error_eq_pllError (r : Nat) (c : Candidate) : c.error r = pllError r c.p c.m c.d := by
  rw [Candidate.error, ppmError, absDiff_eq_natAbs]
  rfl

/-- `ScanBefore` of two candidates. -/
def Candidate.Before (c d : Candidate) : Prop := ScanBefore c.p c.m c.d d.p d.m d.d

theorem Candidate.Before.asymm {c d : Candidate} (h : c.Before d) : ¬ d.Before c := by
  unfold Candidate.Before ScanBefore at *
  omega

theorem pMultipliers_pairwise : pMultipliers.Pairwise (· < ·) :=
  List.pairwise_lt_range.map _ fun _ _ lt => Nat.succ_lt_succ lt

theorem pDivtab_pairwise : pDivtab.Pairwise (· < ·) :=
  List.pairwise_lt_range.map _ fun a b (lt : a < b) => show 2 * (a + 1) < 2 * (b + 1) by omega

/-- The candidates stand in the scan order: one nested loop per component (R175). -/
theorem candidates_pairwise : candidates.Pairwise Candidate.Before := by
  refine List.pairwise_flatMap.2 ⟨fun p _ => List.pairwise_flatMap.2 ⟨fun m _ => ?_, ?_⟩, ?_⟩
  · exact pDivtab_pairwise.map _ fun _ _ lt => .inr ⟨rfl, .inr ⟨rfl, lt⟩⟩
  · refine (pMultipliers_pairwise.filter _).imp fun lt c hc d hd => ?_
    obtain ⟨_, -, rfl⟩ := List.mem_map.1 hc
    obtain ⟨_, -, rfl⟩ := List.mem_map.1 hd
    exact .inr ⟨rfl, .inl lt⟩
  · have ascending : pPrescalers.Pairwise (· < ·) := by decide
    refine ascending.imp fun lt c hc d hd => .inl ?_
    simp only [List.mem_flatMap, List.mem_map] at hc hd
    obtain ⟨_, -, _, -, rfl⟩ := hc
    obtain ⟨_, -, _, -, rfl⟩ := hd
    exact lt

/-- Where the scan replaced its best, it ends with a candidate better than that best and than every candidate before
it (R175). -/
theorem scan_first (r : Nat) (cs : List Candidate) (best : Best) :
    scan r cs best = best ∨ ∃ before c after, cs = before ++ c :: after ∧ scan r cs best = c.toBest r ∧
      c.error r < best.err ∧ ∀ d ∈ before, c.error r < d.error r := by
  induction cs generalizing best with
  | nil => exact .inl rfl
  | cons c cs ih =>
    unfold scan
    split
    case isTrue better =>
      rcases ih (c.toBest r) with e | ⟨before, d, after, rfl, e, lt, first⟩
      · exact .inr ⟨[], c, cs, rfl, e, better, nofun⟩
      · exact .inr ⟨c :: before, d, after, rfl, e, lt.trans better, List.forall_mem_cons.2 ⟨lt, first⟩⟩
    case isFalse worse =>
      refine (ih best).imp_right ?_
      rintro ⟨before, d, after, rfl, e, lt, first⟩
      have better : d.error r < c.error r := lt.trans_le (Nat.le_of_not_lt worse)
      exact ⟨c :: before, d, after, rfl, e, lt, List.forall_mem_cons.2 ⟨better, first⟩⟩

/-- The sentinel never stands (R177). -/
theorem search_err_lt {r : Nat} (h : 1 ≤ r) : (search r).err < pSentinel :=
  (scan_err_le slowestCandidate_mem Best.initial).trans_lt (slowestCandidate_error h)

/-- The search finds a legal triple that is strictly better than every triple before it in scan order (R175). -/
theorem search_first {r : Nat} (h : 1 ≤ r) : ∃ c ∈ candidates, search r = c.toBest r ∧
    ∀ d ∈ candidates, d.Before c → c.error r < d.error r := by
  rcases scan_first r candidates Best.initial with e | ⟨before, c, after, parts, e, -, first⟩
  · exact absurd (congrArg Best.err e) (search_err_lt h).ne
  · have sorted := candidates_pairwise
    rw [parts, List.pairwise_append, List.pairwise_cons] at sorted
    obtain ⟨-, ⟨later, -⟩, -⟩ := sorted
    refine ⟨c, by simp [parts], e, fun d mem earlier => ?_⟩
    rw [parts, List.mem_append, List.mem_cons] at mem
    rcases mem with mem | rfl | mem
    · exact first d mem
    · exact absurd earlier earlier.asymm
    · exact absurd earlier (later d mem).asymm

/-- Settles O21: no candidate beats the best the scan ends with, and those before it are worse. -/
theorem searchFindsFirstBest : Obligations.SearchFindsFirstBest := by
  unfold Obligations.SearchFindsFirstBest
  intro r h
  obtain ⟨c, mem, e, first⟩ := search_first h
  have least {d : Candidate} (hd : d ∈ candidates) : c.error r ≤ d.error r := by
    have le := scan_err_le (r := r) hd Best.initial
    rwa [← search, e] at le
  have below : c.error r < pSentinel := by
    have lt := search_err_lt h
    rwa [e] at lt
  simp only [Candidate.error_eq_pllError] at least below first
  refine ⟨c.p, c.m, c.d, mem_candidates.1 mem, below, ?_, fun p m d legal => ?_, fun p m d legal earlier => ?_⟩
  · rw [e, Candidate.toBest, Candidate.error_eq_pllError]
    rfl
  · exact least (d := ⟨p, m, d⟩) (mem_candidates.2 legal)
  · exact first ⟨p, m, d⟩ (mem_candidates.2 legal) earlier

/-! ### SOLVE and BWBPP -/

/-- Where a command wrote registers only, its finish adds what `finish` does to the state it started in. -/
theorem SameButRegs.finish {s t : State} (h : SameButRegs s t) (c : Code) :
    finish c t = { finish c s with regs := t.regs } := by
  rw [h]
  rfl

/-- SOLVE where its tests pass (R176): the sentinel's case does not arise. -/
theorem execSolve_reports {s : State} {r : Nat} (clk : argNat s 0 ≠ 0) (ht : argNat s 1 ≠ 0)
    (total : 1 ≤ (argNat s 1 : Int) + argInt s 2)
    (request : adjustedRequest (argNat s 0) (argNat s 1) ((argNat s 1 : Int) + argInt s 2).toNat = r)
    (positive : 1 ≤ r) :
    execSolve s = .next (finish .ok (setPllRes (search r) s)) := by
  have valid : ¬ (argNat s 0 = 0 ∨ argNat s 1 = 0 ∨ (argNat s 1 : Int) + argInt s 2 < 1) := by omega
  rw [execSolve]
  dsimp only
  rw [if_neg valid, request, if_neg (by omega), solveRequest]
  rw [if_neg (search_err_lt positive).ne]

/-- SOLVE's ERR_ARG (R176). -/
theorem execSolve_errArg {s : State}
    (invalid : argNat s 0 = 0 ∨ argNat s 1 = 0 ∨ (argNat s 1 : Int) + argInt s 2 < 1 ∨
      adjustedRequest (argNat s 0) (argNat s 1) ((argNat s 1 : Int) + argInt s 2).toNat = 0) :
    execSolve s = .next (finish .errArg s) := by
  rw [execSolve]
  dsimp only
  split_ifs with operands request
  · rfl
  · rfl
  · exact absurd invalid (by tauto)

/-- Settles O23: the sentinel never stands, so that a request that passes the tests is reported. -/
theorem solveOutcomes : Obligations.SolveOutcomes := by
  unfold Obligations.SolveOutcomes
  intro s
  refine ⟨execSolve_errArg, fun clk ht total positive => ?_⟩
  have same : SameButRegs s s := rfl
  have regs : KeepsRegs [0, 1, 2, 3] s s := .of_regs rfl
  exact ⟨_, execSolve_reports clk ht total rfl positive, setPllRes_reportsBest positive s,
    regs.setPllRes (fun _ mem => mem) _, (same.setPllRes _).finish .ok⟩

/-- Settles O26: BWBPP is one write of RES5 and `finish`. -/
theorem bandwidthPolicy : Obligations.BandwidthPolicy := by
  unfold Obligations.BandwidthPolicy
  intro s khz cls
  have le : bwFormula s.env.par khz cls ≤ 3 := bandwidthBpp_le s.env.par khz cls
  have same : SameButRegs s s := rfl
  have regs : KeepsRegs [5] s s := .of_regs rfl
  exact ⟨le, _, rfl, ResHolds.of_ofNat 5 (le.trans_lt (by decide)) s, regs.setRes (by decide) _,
    (same.setRes 5 _).finish .ok⟩

/-! ### NEGOTIATE's rejections -/

/-- Where none of 0..20 is accepted, no perturbation is found (R180). -/
theorem firstAccepted_eq_none {clk ht : Nat} (reject : ∀ k ≤ 20, ¬ TryAccepts clk ht k) :
    firstAccepted clk ht deltas = none := by
  classical
  rw [deltas_eq, firstAccepted_eq_find?, Option.map_eq_none_iff, List.find?_eq_none]
  intro k mem
  simpa using reject k (Nat.le_of_lt_succ (List.mem_range.1 mem))

/-- NEGOTIATE is REJECTED above the ceiling, and below it where no perturbation found has the bandwidth (R180). -/
theorem execNegotiate_rejects {s : State} (clk : argNat s 0 ≠ 0) (ht : argNat s 1 ≠ 0)
    (narrow : argNat s 0 ≤ pClkCeilHz → ∀ delta best,
      firstAccepted (argNat s 0) (argNat s 1) deltas = some (delta, best) →
      bandwidthBpp s.env.par (kHz best.a) (argClass s 2) = 0) :
    execNegotiate s = .next (finish .rejected s) := by
  rw [execNegotiate]
  dsimp only
  rw [if_neg (not_or.2 ⟨clk, ht⟩)]
  split_ifs with ceiling
  · rfl
  · split
    case h_1 => rfl
    case h_2 delta best found => exact if_pos (narrow (Nat.le_of_not_lt ceiling) delta best found)

/-- Settles O25: each clause leaves nothing to accept. -/
theorem negotiateRejects : Obligations.NegotiateRejects := by
  unfold Obligations.NegotiateRejects
  intro s
  refine ⟨fun invalid => if_pos invalid, fun ht above => ?_, fun clk ht reject => ?_,
    fun clk ht k range accepts first bpp => ?_⟩
  · exact execNegotiate_rejects (Nat.ne_zero_of_lt above) ht fun below => absurd above (Nat.not_lt.2 below)
  · refine execNegotiate_rejects clk ht fun _ delta best found => ?_
    nomatch (firstAccepted_eq_none reject).symm.trans found
  · refine execNegotiate_rejects clk ht fun _ delta best found => ?_
    cases (firstAccepted_deltas range accepts first).symm.trans found
    exact bpp

end Sys2Proof.Machine
end

section
/-!
The stream commands (R200, R215, R216, R220-R227, R230, R303, R361), and what a command that ends in an error leaves
(R211, R302).
-/

namespace Sys2Proof.Machine

variable {s t : State}

/-! ### CONFIGURE, DISABLE, CLRSTS -/

theorem Bpp.ofNat?_toNat (b : Bpp) : Bpp.ofNat? b.toNat = some b := by cases b <;> rfl

theorem Bpp.ofNat?_eq_none {n : Nat} (illegal : n = 0 ∨ 3 < n) : Bpp.ofNat? n = none := by
  unfold Bpp.ofNat?
  split
  case h_4 => rfl
  all_goals omega

theorem Bpp.exists_toNat_eq {n : Nat} (low : 1 ≤ n) (high : n ≤ 3) : ∃ b : Bpp, b.toNat = n := by
  interval_cases n
  exacts [⟨.one, rfl⟩, ⟨.two, rfl⟩, ⟨.three, rfl⟩]

theorem execConfigure_of_illegal (illegal : argNat s 1 = 0 ∨ 3 < argNat s 1) :
    execConfigure s = .next (finish .errContract s) := by
  rw [execConfigure, Bpp.ofNat?_eq_none illegal]

/-- CONFIGURE with a legal bpp operand (R200). -/
theorem execConfigure_of_legal {b : Bpp} (legal : b.toNat = argNat s 1) :
    execConfigure s = if s.env.par.maxBuf < roundUp8 (argNat s 0 * argNat s 1) then .next (finish .errRange s)
      else .next (finish .ok (setRes 0 (BitVec.ofNat 32 (roundUp8 (argNat s 0 * argNat s 1)))
        { s with stream := { s.stream with bufSize := roundUp8 (argNat s 0 * argNat s 1), bpp := some b } })) := by
  rw [execConfigure, ← legal, Bpp.ofNat?_toNat]

/-- Settles O27: by whether the bpp operand is a format, and the size rounded up within the maximum. -/
theorem configureOutcomes : Obligations.ConfigureOutcomes := by
  unfold Obligations.ConfigureOutcomes
  intro s ⟨_, _, max⟩ pc bpp size
  refine ⟨execConfigure_of_illegal, fun low high large => ?_, fun low high fits => ?_⟩ <;>
    obtain ⟨b, legal⟩ := Bpp.exists_toNat_eq low high
  · exact (execConfigure_of_legal legal).trans (if_pos large)
  · have small : size < 2 ^ 32 := by omega
    have regs : KeepsRegs [0] s { s with stream := { s.stream with bufSize := size, bpp := some b } } := .of_regs rfl
    exact ⟨_, b, (execConfigure_of_legal legal).trans (if_neg (Nat.not_lt.2 fits)), legal,
      .of_ofNat 0 small _, (regs.setRes (by simp) _).finish .ok, rfl⟩

/-- Settles O29: DISABLE's tests in their order. -/
theorem disableFirstStep : Obligations.DisableFirstStep := by
  unfold Obligations.DisableFirstStep
  refine fun s => ⟨fun wait => if_pos wait, fun fresh rest => ?_, fun fresh running => ?_, fun fresh draining => ?_⟩
  · exact (if_neg fresh).trans (if_pos rest)
  · have rest : ¬ (s.stream.eng = .idle ∨ s.stream.eng = .stopped) := by simp [running]
    exact (if_neg fresh).trans ((if_neg rest).trans (if_pos running))
  · have rest : ¬ (s.stream.eng = .idle ∨ s.stream.eng = .stopped) := by simp [draining]
    have running : s.stream.eng ≠ .running := by simp [draining]
    exact (if_neg fresh).trans ((if_neg rest).trans (if_neg running))

/-- Settles O36: CLRSTS is `finish` after `clearSticky`. -/
theorem clearStatus : Obligations.ClearStatus := by
  unfold Obligations.ClearStatus
  exact fun _ => rfl

/-! ### The selections -/

theorem selectForEncode_of_render {p : Pool} {h : Handle} {q : List Handle} (r : p.r = h :: q) :
    selectForEncode p = some h := by
  rw [selectForEncode, r]

theorem selectForEncode_of_render_nil {p : Pool} (r : p.r = []) :
    selectForEncode p = if p.t = [] then p.w.getLast? else p.t.getLast? := by
  rw [selectForEncode, r]

theorem selectForTransmit_of_transmit {p : Pool} {h : Handle} {q : List Handle} (t : p.t = h :: q) :
    selectForTransmit p = some h := by
  rw [selectForTransmit, t]

theorem selectForTransmit_of_transmit_nil {p : Pool} (t : p.t = []) :
    selectForTransmit p = if p.r = [] then p.w.getLast? else p.r.getLast? := by
  rw [selectForTransmit, t]

/-- Settles O30: each clause is one branch of its selection, and some queue holds a buffer. -/
theorem selectionPolicies : Obligations.SelectionPolicies := by
  unfold Obligations.SelectionPolicies
  refine ⟨fun p h q => selectForEncode_of_render, fun p h q r t => ?_, fun p h q r t w => ?_,
    fun p h q => selectForTransmit_of_transmit, fun p h q t r => ?_, fun p h q t r w => ?_, fun p perm => ?_⟩
  · rw [selectForEncode_of_render_nil r, t, if_neg (by simp), List.getLast?_concat]
  · rw [selectForEncode_of_render_nil r, if_pos t, w, List.getLast?_concat]
  · rw [selectForTransmit_of_transmit_nil t, r, if_neg (by simp), List.getLast?_concat]
  · rw [selectForTransmit_of_transmit_nil t, if_pos r, w, List.getLast?_concat]
  · have some : p.handles ≠ [] := fun nil => by simp [nil] at perm
    exact ⟨Option.isSome_iff_exists.1 (selectForEncode_isSome some),
      Option.isSome_iff_exists.1 (selectForTransmit_isSome some)⟩

/-! ### SUBMIT's select step -/

theorem execSubmit_of_fresh (line : s.hph ≠ .sbLine) (commit : s.hph ≠ .sbCommit) : execSubmit s = submitSelect s := by
  rcases execSubmit_cases (s := s) rfl with ⟨phase, -⟩ | ⟨phase, -⟩ | ⟨-, -, e⟩
  · exact absurd phase line
  · exact absurd phase commit
  · exact e.symm

section
variable (running : s.stream.eng = .running)
include running

theorem submitSelect_unaligned (unaligned : (submitArgs s).src % 4 ≠ 0 ∨ (submitArgs s).pitch % 4 ≠ 0) :
    submitSelect s = .next (finish .errAlign s) :=
  (if_neg (not_not.2 running)).trans (if_pos unaligned)

variable (src : (submitArgs s).src % 4 = 0) (pitch : (submitArgs s).pitch % 4 = 0)
include src pitch

theorem submitSelect_pastEnd (past : (submitArgs s).readsPastEnd) : submitSelect s = .next (finish .errBounds s) :=
  (if_neg (not_not.2 running)).trans ((if_neg (by simp [src, pitch])).trans (if_pos past))

/-- Where the first three checks of R224 pass, the footprint decides. -/
theorem submitSelect_chosen (within : ¬ (submitArgs s).readsPastEnd) {b : Handle} {bpp : Bpp}
    (chosen : selectForEncode s.pool = some b) (format : s.stream.bpp = some bpp) :
    submitSelect s = if (submitArgs s).overflows bpp (sizeAfterResize b s) then .next (finish .errBounds s)
      else .next (submitBegin b bpp s) := by
  rw [submitSelect, chosen, format]
  exact (if_neg (not_not.2 running)).trans ((if_neg (by simp [src, pitch])).trans (if_neg within))

end

/-- Settles O31: each check is the first of R224 that fails. -/
theorem submitRefusals : Obligations.SubmitRefusals := by
  unfold Obligations.SubmitRefusals
  intro s line commit src w hgt pitch past
  have select : exec .submit s = submitSelect s := execSubmit_of_fresh line commit
  rw [select]
  refine ⟨fun stopped => if_pos stopped, submitSelect_unaligned, submitSelect_pastEnd, ?_⟩
  intro b bpp running aligned pitches within chosen format len size wide high leaves
  exact (submitSelect_chosen running aligned pitches within chosen format).trans (if_pos ⟨wide, high, leaves⟩)

/-- What the lazy resize leaves of the buffers (R85, R222). -/
theorem resized_buf (b k : Handle) (s : State) : (resized b s).pool.buf k
    = if k = b then Buffer.fresh s.stream.bufSize s.events.length else s.pool.buf k :=
  buf_setBuf ..

/-- Settles O32: once the checks pass, the size and in_flight of the chosen buffer and the allocation's answer
decide. -/
theorem submitBegins : Obligations.SubmitBegins := by
  unfold Obligations.SubmitBegins
  intro s b bpp line commit running src w hgt pitch len stale size aligned pitches within chosen format fits
  have begins : exec .submit s = .next (submitBegin b bpp s) := (execSubmit_of_fresh line commit).trans
    ((submitSelect_chosen running aligned pitches within chosen format).trans (if_neg fits))
  rw [begins]
  rcases submitBegin_cases b bpp s with ⟨same, e⟩ | ⟨differs, idle, ok, e⟩ | ⟨differs, idle, nomem, e⟩ |
    ⟨differs, busy, e⟩ <;> rw [e]
  · exact ⟨fun _ => rfl, absurd same, absurd same, absurd same⟩
  · have fresh : (resized b s).pool.buf b = Buffer.fresh s.stream.bufSize s.events.length :=
      (resized_buf ..).trans (if_pos rfl)
    refine ⟨absurd differs, fun _ _ _ => ⟨resized b s, rfl, ?_, ?_, bufRead_of_fresh fresh, fun k other => ?_, rfl, rfl⟩,
      fun _ _ nomem => ?_, fun _ busy => absurd idle busy⟩
    · rw [fresh]; rfl
    · rw [fresh]; rfl
    · exact (resized_buf ..).trans (if_neg other)
    · nomatch ok.symm.trans nomem
  · refine ⟨absurd differs, fun _ _ ok => ?_, fun _ _ _ => rfl, fun _ busy => absurd idle busy⟩
    nomatch ok.symm.trans nomem
  · exact ⟨absurd differs, fun _ idle => absurd idle busy, fun _ idle => absurd idle busy, fun _ _ => rfl⟩

/-! ### Errors -/

/-- What a fatal event does to a running stream (R262). -/
theorem fatal_of_running (running : s.stream.eng = .running) : fatal s = { s with
    status := { s.status with streamFault := true }
    events := s.events ++ [.fault]
    stream := { s.stream with
      enabled := false, eng := .draining, dph := if s.stream.dph = .none then .join else s.stream.dph } } := by
  rw [fatal, if_pos running]

theorem beginSubmit_hph_ne_idle (b : Handle) (bpp : Bpp) (s : State) : (beginSubmit b bpp s).hph ≠ .idle := by
  unfold beginSubmit
  dsimp only
  split_ifs <;> nofun

theorem ok_toByte_lt : Code.ok.toByte.toNat < 0x10 := by decide

theorem rejected_toByte_lt : Code.rejected.toByte.toNat < 0x10 := by decide

/-- Settles O12: of the outcomes that leave the Host idle with an error code, one is `finish` alone, and the others are
the failed allocations of ENABLE and of SUBMIT's resize. -/
theorem errorsChangeNothing : Obligations.ErrorsChangeNothing := by
  unfold Obligations.ErrorsChangeNothing
  intro i s t e idle error
  cases exec_result e with
  | finished c => exact .inl rfl
  | notAllocated => exact .inr (.inl ⟨rfl, rfl⟩)
  | notResized b fresh running =>
    refine .inr (.inr ⟨rfl, b, ?_⟩)
    rw [fatal_of_running (s := emit _ s) running, emit_events, List.append_assoc]
    rfl
  | waits wait => nomatch wait.symm.trans idle
  | tearsDown | joins => nomatch idle
  | begins b bpp => exact absurd idle (beginSubmit_hph_ne_idle b bpp s)
  | beginsResized b bpp => exact absurd idle (beginSubmit_hph_ne_idle b bpp _)
  | encodes src line =>
    dsimp only at idle
    rw [line] at idle
    split_ifs at idle
  | unsolved => exact absurd error (Nat.not_le.2 rejected_toByte_lt)
  | packed | solved | negotiated | reportedBpp | configured | enabled | commits | clears =>
    exact absurd error (Nat.not_le.2 ok_toByte_lt)

/-! ### SUBMIT's commit step -/

/-- `t` is `s` after SUBMIT's commit (R226). -/
structure Commits (s t : State) : Prop where
  transmit : t.pool.t = s.pool.t.filter (· ≠ s.sub.h) ++ [s.sub.h]
  render : t.pool.r = s.pool.r.filter (· ≠ s.sub.h)
  wait : t.pool.w = s.pool.w.filter (· ≠ s.sub.h)
  buffers : t.pool = { s.pool with r := t.pool.r, t := t.pool.t, w := t.pool.w }
  res : ResHolds 0 s.sub.h t
  regs : KeepsRegs [0] s t
  done : t = { finish .ok s with regs := t.regs, pool := t.pool, sub := { s.sub with sb := false } }

theorem remove_eq_filter (q : List Handle) (h : Handle) : remove q h = q.filter (· ≠ h) :=
  List.filter_congr fun k _ => by rw [bne, decide_not, beq_eq_decide]

theorem submitCommit_commits (s : State) : ∃ t, submitCommit s = .next t ∧ Commits s t := by
  refine ⟨_, rfl, ?_⟩
  have regs : KeepsRegs [0] s { s with
      pool := s.pool.moveTail s.sub.h .transmit, sub := { s.sub with sb := false } } := .of_regs rfl
  exact {
    transmit := congrArg (· ++ [s.sub.h]) (remove_eq_filter ..)
    render := remove_eq_filter ..
    wait := remove_eq_filter ..
    buffers := rfl
    res := .of_ofNat 0 (by omega) _
    regs := (regs.setRes (by simp) _).finish .ok
    done := rfl }

theorem execSubmit_of_commit (commit : s.hph = .sbCommit) : execSubmit s = submitCommit s := by
  rw [execSubmit, commit]

theorem Commits.finished (h : Commits s t) : t.hph = .idle ∧ t.status.code = .ok ∧ t.status.busy = false := by
  rw [h.done]
  exact ⟨rfl, rfl, rfl⟩

/-- Settles O34: the commit step's effect is `Commits`. -/
theorem submitCommitStep : Obligations.SubmitCommitStep := by
  unfold Obligations.SubmitCommitStep
  intro s commit
  obtain ⟨t, e, transmit, render, wait, buffers, res, regs, done⟩ := submitCommit_commits s
  exact ⟨t, (execSubmit_of_commit commit).trans e, transmit, render, wait, buffers, res, regs, done⟩

/-! ### SUBMIT under the Host's steps alone -/

theorem hostStep_of_line (line : s.hph = .sbLine) : hostStep s = submitLine s :=
  (hostStep_of_submitting (.inl line)).trans (execSubmit_of_line line)

theorem hostStep_commits (commit : s.hph = .sbCommit) : ∃ t, hostStep s = .next t ∧ Commits s t := by
  obtain ⟨t, e, commits⟩ := submitCommit_commits s
  exact ⟨t, (hostStep_of_submitting (.inr commit)).trans ((execSubmit_of_commit commit).trans e), commits⟩

/-- `t` is a state in which the SUBMIT that encodes lines in `s` has taken `k` more line steps (R223, R225). -/
structure AfterLines (k : Nat) (s t : State) : Prop where
  sub : t.sub = { s.sub with y := s.sub.y + k }
  hph : t.hph = if s.sub.y + k < s.sub.hgt then .sbLine else .sbCommit
  busy : t.status.busy = s.status.busy

theorem AfterLines.zero (line : s.hph = .sbLine) (left : s.sub.y < s.sub.hgt) : AfterLines 0 s s :=
  ⟨rfl, by rw [line, Nat.add_zero, if_pos left], rfl⟩

/-- Another line step. -/
theorem AfterLines.succ {k : Nat} {u : State} (h : AfterLines k s t) (left : s.sub.y + k < s.sub.hgt)
    (e : hostStep t = .next u) : AfterLines (k + 1) s u := by
  have line : t.hph = .sbLine := h.hph.trans (if_pos left)
  rcases submitLine_cases ((hostStep_of_line line).symm.trans e) with ⟨src, e⟩ | e <;> cases e
  refine ⟨?_, ?_, h.busy⟩
  · dsimp only
    rw [h.sub, Nat.add_assoc]
  · have last : t.sub.y + 1 = t.sub.hgt ↔ ¬ s.sub.y + (k + 1) < s.sub.hgt := by
      rw [h.sub]
      dsimp only
      omega
    by_cases more : s.sub.y + (k + 1) < s.sub.hgt
    · rw [if_pos more]
      exact (if_neg fun eq => last.1 eq more).trans line
    · rw [if_neg more]
      exact if_pos (last.2 more)

/-- `t` is `s` but for bytes of buffers, events, and SUBMIT's own progress. -/
def OnlyEncodes (s t : State) : Prop :=
  t = { s with pool := { s.pool with bufs := t.pool.bufs }, events := t.events, sub := t.sub, hph := t.hph }

theorem OnlyEncodes.refl (s : State) : OnlyEncodes s s := rfl

theorem OnlyEncodes.trans {u : State} (h : OnlyEncodes s t) (k : OnlyEncodes t u) : OnlyEncodes s u := by
  rw [OnlyEncodes] at h k ⊢
  rw [k, h]

theorem hostStep_onlyEncodes (line : s.hph = .sbLine) (e : hostStep s = .next t) : OnlyEncodes s t := by
  rcases submitLine_cases ((hostStep_of_line line).symm.trans e) with ⟨src, e⟩ | e <;> cases e
  rfl

/-- One more of the Host's steps is taken in the state the steps before it answer. -/
theorem hostSteps_succ {k : Nat} (e : hostSteps k s = .next t) : hostSteps (k + 1) s = hostStep t := by
  induction k generalizing s with
  | zero =>
    cases e
    rw [hostSteps]
    cases hostStep t <;> rfl
  | succ k ih =>
    rw [hostSteps] at e
    cases first : hostStep s with
    | next u =>
      rw [first] at e
      rw [hostSteps, first]
      exact ih e
    | fault f | refused r =>
      rw [first] at e
      nomatch e

/-- Where every source byte exists, the Host's steps encode line after line (R225). -/
theorem hostSteps_encode (line : s.hph = .sbLine) (left : s.sub.y < s.sub.hgt) (all : s.env.absent = []) (k : Nat)
    (le : s.sub.y + k ≤ s.sub.hgt) : ∃ u, hostSteps k s = .next u ∧ AfterLines k s u ∧ OnlyEncodes s u := by
  induction k with
  | zero => exact ⟨s, rfl, .zero line left, .refl s⟩
  | succ k ih =>
    obtain ⟨u, steps, lines, only⟩ := ih (by omega)
    have phase : u.hph = .sbLine := lines.hph.trans (if_pos (by omega))
    have env : u.env = s.env := by rw [only]
    have admitted : Admitted u.env (u.sub.src + u.sub.y * u.sub.pitch) (4 * u.sub.w) := by
      simp [Admitted, env, all]
    have next := (hostStep_of_line phase).trans (submitLine_admitted admitted)
    exact ⟨_, (hostSteps_succ steps).trans next, lines.succ (by omega) next,
      only.trans (hostStep_onlyEncodes phase next)⟩

/-! ### SUBMIT in a run -/

theorem hostTurns_succ (sched : Nat → Turn) (k : Nat) :
    hostTurns sched (k + 1) = hostTurns sched k + if (sched k).who = .host then 1 else 0 := by
  simp [hostTurns, List.range_succ, List.countP_append, List.countP_singleton]

/-- `t` has the SUBMIT of `s` where it stood. -/
structure SubmitStays (s t : State) : Prop where
  sub : t.sub = s.sub
  hph : t.hph = s.hph
  busy : t.status.busy = s.status.busy

theorem AfterLines.stays {k : Nat} {u : State} (h : AfterLines k s t) (stays : SubmitStays t u) : AfterLines k s u :=
  ⟨stays.sub.trans h.sub, stays.hph.trans h.hph, stays.busy.trans h.busy⟩

theorem completeTransmit_submitStays (x : Transfer) (s : State) : SubmitStays s (completeTransmit x s) := by
  rw [completeTransmit_eq]
  exact ⟨rfl, rfl, rfl⟩

theorem PortResult.submitStays (e : PortResult s t) (busy : s.status.busy = true) : SubmitStays s t := by
  cases e with
  | starts w prog idle => nomatch busy.symm.trans idle
  | observes | drops | writes => exact ⟨rfl, rfl, rfl⟩

theorem WorkerResult.submitStays (e : WorkerResult s t) : SubmitStays s t := by
  cases e <;> exact ⟨rfl, rfl, rfl⟩

theorem BusResult.submitStays (e : BusResult s t) : SubmitStays s t := by
  cases e with
  | stays | resubmits => exact ⟨rfl, rfl, rfl⟩
  | completes x | fails x =>
    obtain ⟨sub, hph, busy⟩ := completeTransmit_submitStays x _
    exact ⟨sub, hph, busy⟩

/-- Drain finish waits for the SUBMIT to end (R227, R278). -/
theorem DrainResult.submitStays (e : DrainResult s t) (sb : s.sub.sb = true) : SubmitStays s t := by
  cases e with
  | stays | joins | cancels => exact ⟨rfl, rfl, rfl⟩
  | frees _ done | finishes _ done => nomatch sb.symm.trans done

/-- No agent but the Host takes a step of a SUBMIT that has begun: the port starts no command while BUSY, and neither
Drain finish nor a reset comes before the commit (R34, R227, R278, R341). -/
theorem agentStep_submitStays {a : Agent} (other : a ≠ .host) (sb : s.sub.sb = true) (busy : s.status.busy = true)
    (e : agentStep a s = .next t) : SubmitStays s t := by
  by_cases reset : a = .reset
  · subst reset
    have pending : resetAllowed s = false := by simp [resetAllowed, sb]
    rw [agentStep, resetTurn, pending] at e
    nomatch e
  · cases agentStep_result e with
    | port done => exact done.submitStays busy
    | memory => exact ⟨rfl, rfl, rfl⟩
    | host => exact absurd rfl other
    | worker done => exact done.submitStays
    | bus done => exact done.submitStays
    | drain done => exact done.submitStays sb
    | reset => exact absurd rfl reset

theorem IsRun.agentStep {sched : Nat → Turn} {run : Nat → State} (h : IsRun sched run) (k : Nat) :
    agentStep (sched k).who (beginTurn (withTurn (sched k) (run k))) = .next (run (k + 1)) := h k

/-- In a run the lines go on by the Host agent's turns alone (R223, R227). -/
theorem IsRun.afterLines {sched : Nat → Turn} {run : Nat → State} (h : IsRun sched run)
    (line : (run 0).hph = .sbLine) (left : (run 0).sub.y < (run 0).sub.hgt) (sb : (run 0).sub.sb = true)
    (busy : (run 0).status.busy = true) (k : Nat) (le : (run 0).sub.y + hostTurns sched k ≤ (run 0).sub.hgt) :
    AfterLines (hostTurns sched k) (run 0) (run k) := by
  induction k with
  | zero => exact .zero line left
  | succ k ih =>
    rw [hostTurns_succ] at le ⊢
    have lines := ih (by omega)
    have begun : AfterLines (hostTurns sched k) (run 0) (beginTurn (withTurn (sched k) (run k))) :=
      lines.stays ⟨rfl, rfl, rfl⟩
    have step := h.agentStep k
    split_ifs at le ⊢ with host
    · rw [host] at step
      exact begun.succ (by omega) step
    · have pending : (run k).sub.sb = true := by rw [lines.sub]; exact sb
      exact begun.stays (agentStep_submitStays host pending (lines.busy.trans busy) step)

/-- The Host agent's turn after the last line is the commit (R226). -/
theorem IsRun.commits {sched : Nat → Turn} {run : Nat → State} (h : IsRun sched run) {k : Nat}
    (commit : (run k).hph = .sbCommit) (host : (sched k).who = .host) :
    Commits (beginTurn (withTurn (sched k) (run k))) (run (k + 1)) := by
  obtain ⟨t, step, commits⟩ := hostStep_commits (s := beginTurn (withTurn (sched k) (run k))) commit
  have turn := h.agentStep k
  rw [host] at turn
  have same : t = run (k + 1) := Host.Outcome.next.inj (step.symm.trans turn)
  exact same ▸ commits

/-- Settles O35: the Host's line steps are counted by `AfterLines`, which no other agent's step disturbs, and the step
after the last of them is the commit. -/
theorem submitTakesLineSteps : Obligations.SubmitTakesLineSteps := by
  unfold Obligations.SubmitTakesLineSteps
  refine ⟨fun s n line last some all => ?_, fun sched run n isRun inv line last k => ?_⟩
  · obtain ⟨u, steps, lines, only⟩ := hostSteps_encode line (by omega) all n (by omega)
    have commit : u.hph = .sbCommit := lines.hph.trans (if_neg (by omega))
    have sub : u.sub = { s.sub with y := s.sub.hgt } := by rw [lines.sub, last]
    have buffer : u.sub.h = s.sub.h := by rw [sub]
    have queue : u.pool.t = s.pool.t := by rw [only]
    obtain ⟨t, step, commits⟩ := hostStep_commits commit
    obtain ⟨idle, code, busy⟩ := commits.finished
    obtain ⟨transmit, -, -, -, res, -, done⟩ := commits
    rw [buffer] at res
    rw [buffer, queue] at transmit
    refine ⟨u, t, steps, commit, sub, (hostSteps_succ steps).trans step, idle, code, busy, res, ?_, transmit, ?_, ?_, ?_⟩
    · rw [done]
    all_goals rw [done, only]; rfl
  · have left := inv.command.line_left line
    have sb : (run 0).sub.sb = true := inv.command.sb_iff.2 (.inl line)
    have busy : (run 0).status.busy = true := inv.command.busy_iff.2 (by simp [line])
    have lines (le : hostTurns sched k ≤ n) := isRun.afterLines line left sb busy k (by omega)
    refine ⟨fun le => ⟨(lines le).sub, ?_, (lines le).busy.trans busy⟩, fun eq host => ?_⟩
    · rw [(lines le).hph, ← last]
      simp
    · have commit : (run k).hph = .sbCommit := (lines eq.le).hph.trans (if_neg (by omega))
      have buffer : (run k).sub.h = (run 0).sub.h := by rw [(lines eq.le).sub]
      have commits := isRun.commits commit host
      obtain ⟨idle, code, done⟩ := commits.finished
      rw [← buffer]
      exact ⟨idle, code, done, commits.res, congrArg State.sub commits.done, commits.transmit, commits.render,
        commits.wait⟩

end Sys2Proof.Machine
end

section
/-!
The Worker's steps and the fatal action (R245-R251, R262, R272): what each does to the pool and the stream, and how
near it brings a disabled Worker to OFF.
-/

namespace Sys2Proof.Machine

variable {s t : State} {k : XferKind} {n : Nat} {p : WorkerPhase}

/-! ### The wait step and the fatal action -/

theorem workerStep_of_wait (phase : s.worker.wph = .wait) : workerStep s = .next (workerWait s) := by
  rw [workerStep, phase]

/-- Settles O37: the three outcomes of the wait step exclude one another. -/
theorem workerWaitStep : Obligations.WorkerWaitStep := by
  unfold Obligations.WorkerWaitStep
  intro s phase
  rw [workerStep_of_wait phase]
  rcases workerWait_cases s with ⟨disabled, e⟩ | ⟨enabled, credit, e⟩ | ⟨enabled, none, e⟩ <;> rw [e]
  · simp [disabled]
  · simp [enabled, credit, credit.ne']
  · simp [enabled, none]

/-- Settles O41: the engine's state decides whether `fatal` touches the stream. -/
theorem fatalAction : Obligations.FatalAction := by
  unfold Obligations.FatalAction
  exact fun s => ⟨fatal_of_running, fun other => by rw [fatal, if_neg other]⟩

/-! ### The select step -/

theorem workerStep_of_select (phase : s.worker.wph = .select) : workerStep s = workerSelect s := by
  rw [workerStep, phase]

/-- A change of in_flight changes nothing else of the buffer. -/
theorem setInFlight_buf_self (b : Handle) (m : Nat) (q : Pool) :
    (q.setInFlight b m).buf b = { q.buf b with inFlight := m } := buf_setBuf_self ..

theorem setInFlight_buf_of_ne {b c : Handle} (other : c ≠ b) (m : Nat) (q : Pool) :
    (q.setInFlight b m).buf c = q.buf c := buf_setBuf_of_ne other ..

/-- Settles O38: the buffer chosen is moved by `moveTail` and counted by `setInFlight`, and nothing else is. -/
theorem workerSelectStep : Obligations.WorkerSelectStep := by
  unfold Obligations.WorkerSelectStep
  intro s phase
  rw [workerStep_of_select phase]
  refine ⟨fun disabled => if_pos disabled, fun b enabled chosen => ⟨selectBuffer b s, ?_, rfl, ?_, ?_, ?_, ?_,
    fun c other => ?_, ?_, ?_, rfl⟩⟩
  · rw [workerSelect, if_neg (by simp [enabled]), chosen]
  · exact congrArg (· ++ [b]) (remove_eq_filter s.pool.w b)
  · exact remove_eq_filter s.pool.r b
  · exact remove_eq_filter s.pool.t b
  · rw [selectBuffer_pool, setInFlight_buf_self, moveTail_buf]
    rfl
  · rw [selectBuffer_pool, setInFlight_buf_of_ne other, moveTail_buf]
  · rw [selectBuffer_pool, setInFlight_nb, moveTail_nb]
  · rw [selectBuffer_pool, setInFlight_zlpCtx, moveTail_zlpCtx]

/-! ### What a release does -/

/-- `q` is `p` with in_flight(b) lower by `m`, and with `b` at the tail of R when that leaves none (R250, R265). -/
structure Releases (b : Handle) (m : Nat) (p q : Pool) : Prop where
  count : q.buf b = { p.buf b with inFlight := (p.buf b).inFlight - m }
  others : ∀ c, c ≠ b → q.buf c = p.buf c
  idle : (p.buf b).inFlight ≤ m →
    q.r = p.r.filter (· ≠ b) ++ [b] ∧ q.t = p.t.filter (· ≠ b) ∧ q.w = p.w.filter (· ≠ b)
  busy : m < (p.buf b).inFlight → q.r = p.r ∧ q.t = p.t ∧ q.w = p.w
  nb : q.nb = p.nb
  zlpCtx : q.zlpCtx = p.zlpCtx

theorem release_releases (b : Handle) (m : Nat) (p : Pool) : Releases b m p (p.release b m) := by
  rcases release_cases b m p with ⟨zero, e⟩ | ⟨left, e⟩ <;> rw [e]
  · exact {
      count := by rw [moveTail_buf, setInFlight_buf_self, zero]
      others := fun c other => by rw [moveTail_buf, setInFlight_buf_of_ne other]
      idle := fun _ => ⟨congrArg (· ++ [b]) (remove_eq_filter p.r b), remove_eq_filter p.t b, remove_eq_filter p.w b⟩
      busy := fun more => by omega
      nb := moveTail_nb ..
      zlpCtx := moveTail_zlpCtx .. }
  · exact {
      count := setInFlight_buf_self ..
      others := fun c other => setInFlight_buf_of_ne other ..
      idle := fun few => by omega
      busy := fun _ => ⟨rfl, rfl, rfl⟩
      nb := rfl
      zlpCtx := rfl }

/-! ### A failed submission -/

/-- The Worker's step before a submission is the attempt (R247, R248). -/
theorem workerStep_of_submitting (turn : Submitting s k n p) : workerStep s = .next (submission k n p s) := by
  cases turn with
  | main phase => rw [workerStep, phase]; rfl
  | zlp phase => rw [workerStep, phase]; rfl

/-- A MAIN that fails leaves its companion unsent too (R250). -/
theorem unsent_eq (k : XferKind) (needZlp : Bool) :
    unsent k needZlp = if k = .main ∧ needZlp = true then 2 else 1 := by
  cases k <;> cases needZlp <;> rfl

/-- Settles O40: a failed attempt retries or gives up, and giving up releases what will never be sent. -/
theorem submissionFailed : Obligations.SubmissionFailed := by
  unfold Obligations.SubmissionFailed
  intro s k failed before
  obtain ⟨n, p, turn⟩ : ∃ n p, Submitting s k n p := by
    rcases before with ⟨rfl, phase⟩ | ⟨rfl, phase⟩
    · exact ⟨_, _, .main phase⟩
    · exact ⟨_, _, .zlp phase⟩
  rw [workerStep_of_submitting turn, ← unsent_eq]
  rcases submission_cases k n p s with ⟨ok, -⟩ | ⟨nomem, again, e⟩ | ⟨-, last, e⟩
  · exact absurd ok failed
  · refine ⟨fun _ _ => by rw [e, nomem], fun final => ?_⟩
    rcases final with error | spent
    · nomatch nomem.symm.trans error
    · omega
  · refine ⟨fun nomem again => absurd ⟨nomem, again⟩ last, fun _ => ⟨_, congrArg _ e, ?_⟩⟩
    obtain ⟨count, others, idle, busy, nb, zlpCtx⟩ :=
      release_releases s.worker.cur (unsent k s.worker.needZlp) s.pool
    exact ⟨count, others, idle, busy, nb, zlpCtx, rfl⟩

/-! ### The way to OFF -/

/-- A disabled stream stays disabled under a fatal event (R262). -/
theorem fatal_disabled (disabled : s.stream.enabled = false) : (fatal s).stream.enabled = false := by
  by_cases running : s.stream.eng = .running
  · rw [fatal_stream_running s running]
  · rwa [fatal_stream_not_running s running]

theorem workerStepsLeft_off (off : s.worker.wph = .off) : workerStepsLeft s = 0 := by
  rw [workerStepsLeft, off]

theorem workerStepsLeft_le (s : State) : workerStepsLeft s ≤ 3 + 2 * s.env.par.retryMax := by
  unfold workerStepsLeft
  cases s.worker.wph <;> dsimp only <;> omega

theorem workerStepsLeft_pos (work : s.worker.wph ≠ .off) : 0 < workerStepsLeft s := by
  unfold workerStepsLeft
  cases phase : s.worker.wph
  case off => exact absurd phase work
  all_goals dsimp only; omega

/-- An attempt to submit brings the Worker nearer to OFF: an accepted one to the next phase, a retried one by a retry,
a final one at once (R250, R251). -/
theorem submission_nearer (turn : Submitting s k n p) : workerStepsLeft (submission k n p s) < workerStepsLeft s := by
  rcases submission_cases k n p s with ⟨-, e⟩ | ⟨-, again, e⟩ | ⟨-, -, e⟩ <;> rw [e]
  · cases turn with
    | main phase => cases zlp : s.worker.needZlp <;> simp [workerStepsLeft, phase] <;> omega
    | zlp phase => simp [workerStepsLeft, phase]; omega
  · cases turn with
    | main phase | zlp phase => simp only [workerStepsLeft, phase]; omega
  · rw [workerStepsLeft_off rfl]
    exact workerStepsLeft_pos turn.busy

theorem submission_disabled (disabled : s.stream.enabled = false) : (submission k n p s).stream.enabled = false := by
  rcases submission_cases k n p s with ⟨-, e⟩ | ⟨-, -, e⟩ | ⟨-, -, e⟩ <;> rw [e]
  · exact disabled
  · exact disabled
  · exact fatal_disabled disabled

/-- A step of a disabled Worker that is at work brings it nearer to OFF (R272). -/
theorem workerStep_nearer (disabled : s.stream.enabled = false) (work : s.worker.wph ≠ .off)
    (e : workerStep s = .next t) : workerStepsLeft t < workerStepsLeft s ∧ t.stream.enabled = false := by
  have submits {k : XferKind} {n : Nat} {p : WorkerPhase} (turn : Submitting s k n p) :
      workerStepsLeft t < workerStepsLeft s ∧ t.stream.enabled = false := by
    rw [workerStep_of_submitting turn] at e
    cases e
    exact ⟨submission_nearer turn, submission_disabled disabled⟩
  cases phase : s.worker.wph with
  | off => exact absurd phase work
  | wait =>
    rw [workerStep_of_wait phase, workerWait, if_pos disabled] at e
    cases e
    exact ⟨(workerStepsLeft_off rfl).trans_lt (workerStepsLeft_pos work), disabled⟩
  | select =>
    rw [workerStep_of_select phase, workerSelect, if_pos disabled] at e
    cases e
    exact ⟨(workerStepsLeft_off rfl).trans_lt (workerStepsLeft_pos work), disabled⟩
  | subMain => exact submits (.main phase)
  | subZlp => exact submits (.zlp phase)

/-- Settles O42: every step lowers `workerStepsLeft`, which R272's bound limits. -/
theorem workerReachesOff : Obligations.WorkerReachesOff := by
  unfold Obligations.WorkerReachesOff
  intro s t disabled work e
  obtain ⟨nearer, stays⟩ := workerStep_nearer disabled work e
  exact ⟨nearer, stays, workerStepsLeft_le s⟩

end Sys2Proof.Machine
end

section
/-!
The Bus's completions (R265-R268) and the Drain agent's steps (R270, R271, R276, R278, R279).
-/

namespace Sys2Proof.Machine

variable {s t : State} {x : Transfer}

/-! ### Which transfer completes -/

/-- While cancellation is requested every draw comes to OK or CANCELLED (R266). -/
theorem allowedStatus_of_cancel {cancel : Bool} (h : cancel = true) (st : XferStatus) :
    allowedStatus cancel st = .ok ∨ allowedStatus cancel st = .cancelled := by
  subst h
  cases st <;> simp [allowedStatus]

/-- A status of the transfer's set is drawn as it is (R266). -/
theorem allowedStatus_of_allowed {cancel : Bool} {st : XferStatus}
    (allowed : cancel = true → st = .ok ∨ st = .cancelled) : allowedStatus cancel st = st := by
  cases cancel with
  | false => rfl
  | true => rcases allowed rfl with rfl | rfl <;> rfl

/-- The draw of a transfer's own position chooses it (R265). -/
theorem busStep_of_pick {i : Nat} (at_i : s.bus.outs[i]? = some x) (pick : s.env.ans.pick = i) :
    busStep s = completion x (allowedStatus s.stream.cancelReq s.env.ans.status) s := by
  obtain ⟨lt, -⟩ := List.getElem?_eq_some_iff.1 at_i
  have chosen : chosenTransfer s = some x := by rw [chosenTransfer, pick, Nat.mod_eq_of_lt lt, at_i]
  rw [busStep, chosen]

/-- Settles O43: `busStep_cases` says that some transfer completes, and its own position chooses any of them. -/
theorem anyTransferMayComplete : Obligations.AnyTransferMayComplete := by
  unfold Obligations.AnyTransferMayComplete
  refine ⟨fun s quiet => ?_, fun s some => ?_, fun s x st out allowed => ?_⟩
  · rcases busStep_cases s with ⟨-, e⟩ | ⟨x, out, -⟩
    · exact e
    · rw [quiet] at out
      nomatch out
  · rcases busStep_cases s with ⟨quiet, -⟩ | ⟨x, out, e⟩
    · exact absurd quiet some
    · exact ⟨x, out, _, fun cancel => allowedStatus_of_cancel cancel s.env.ans.status, e⟩
  · obtain ⟨i, at_i⟩ := List.mem_iff_getElem?.1 out
    refine ⟨i, ?_⟩
    intro u
    exact (busStep_of_pick (s := u) at_i rfl).trans (congrArg (completion x · u) (allowedStatus_of_allowed allowed))

/-! ### What a completion does -/

/-- A completion other than HALT is completeTransmit after its event, with XFER_ERR for ERROR (R265, R267). -/
theorem completion_of_ne_halt {st : XferStatus} (h : st ≠ .halt) (x : Transfer) (s : State) :
    completion x st s = completeTransmit x { s with
      events := s.events ++ [.complete x.id st]
      status := { s.status with xferErr := s.status.xferErr || st = .error } } := by
  cases st with
  | halt => exact absurd rfl h
  | error => simp [completion, emit, setXferErr]
  | ok | cancelled => simp [completion, emit]

/-- Settles O44: completeTransmit field by field, its release of the buffer being `Releases`. -/
theorem completionEffects : Obligations.CompletionEffects := by
  unfold Obligations.CompletionEffects
  intro s x st h
  rw [completion_of_ne_halt h, completeTransmit_eq]
  obtain ⟨count, others, idle, busy, nb, zlpCtx⟩ := release_releases x.h 1 s.pool
  have outs : s.bus.outs.filter (· != x) = s.bus.outs.filter (· ≠ x) :=
    List.filter_congr fun u _ => by rw [bne, decide_not, beq_eq_decide]
  refine ⟨?bus, count, others, idle, busy, nb, zlpCtx, ?events, ?frame⟩ <;> dsimp only
  case bus => rw [outs]
  case events => split_ifs <;> simp
  case frame => split_ifs <;> rfl

/-! ### The Drain agent -/

theorem drainStep_joins (phase : s.stream.dph = .join) (off : s.worker.wph = .off) : drainStep s = drainJoin s := by
  simp [drainStep, phase, off]

theorem drainStep_waits_worker (phase : s.stream.dph = .join) (work : s.worker.wph ≠ .off) : drainStep s = s := by
  simp [drainStep, phase, work]

theorem drainStep_cancels (phase : s.stream.dph = .waitXfers) (some : s.bus.outs ≠ []) :
    drainStep s = drainCancel s := by
  simp [drainStep, phase, some]

theorem drainStep_waits_transfers (phase : s.stream.dph = .cancelling) (some : s.bus.outs ≠ []) : drainStep s = s := by
  simp [drainStep, phase, some]

/-- Where its guard holds the Drain agent's step is the finish step (R278). -/
theorem drainStep_finishes (phase : s.stream.dph = .waitXfers ∨ s.stream.dph = .cancelling) (quiet : s.bus.outs = [])
    (sb : s.sub.sb = false) : drainStep s = drainFinish s := by
  rcases phase with phase | phase <;> simp [drainStep, phase, quiet, sb]

/-- Settles O46: the Drain agent's phase and its guards. -/
theorem drainSteps : Obligations.DrainSteps := by
  unfold Obligations.DrainSteps
  refine fun s => ⟨fun phase => by rw [drainStep, phase], drainStep_waits_worker, drainStep_joins, drainStep_cancels,
    drainStep_waits_transfers, fun phase quiet sb => ?_⟩
  rcases phase with phase | phase <;> simp [drainStep, phase, quiet, sb]

end Sys2Proof.Machine

/-! Two obligations bear the names of the model's own functions, so their theorems stand one namespace up. -/

namespace Sys2Proof

/-- Settles O45: the resubmission flag, the CLEAR_HALT answer and the bus's answer choose the case. -/
theorem haltHandling : Obligations.HaltHandling := by
  unfold Obligations.HaltHandling
  intro s x
  refine ⟨fun again => ?_, fun first fail => ?_, fun first clear refused => ?_, fun first clear ok => ?_⟩
  · simp [Machine.completion, Machine.haltHandling, Machine.emit, again]
  · simp [Machine.completion, Machine.haltHandling, Machine.emit, first, fail]
  · simp [Machine.completion, Machine.haltHandling, Machine.emit, first, clear, refused]
  · simp [Machine.completion, Machine.haltHandling, Machine.emit, Machine.markResubmitted, first, clear, ok]

/-- Settles O47: what `Machine.drainFree` leaves is what reset leaves, and a waiting DISABLE is finished. -/
theorem drainFinish : Obligations.DrainFinish := by
  unfold Obligations.DrainFinish
  intro s phase quiet sb
  refine ⟨Machine.drainFinish s, Machine.drainStep_finishes phase quiet sb, ?_⟩
  unfold Machine.drainFinish
  split_ifs with wait
  · exact ⟨rfl, rfl, rfl, rfl, fun _ => rfl, fun other => absurd wait other⟩
  · exact ⟨rfl, rfl, rfl, rfl, fun other => absurd other wait, fun _ => rfl⟩

end Sys2Proof
end

section
/-!
The engine's transitions (R43, R240): where each agent's step may take S.eng.
-/

namespace Sys2Proof.Machine

variable {s t : State}

/-- What the agent `who` may have done to the engine in a step from `s` to `t` (R240). -/
inductive EngineMove (who : Agent) (s t : State) : Prop
  | stays (eng : t.stream.eng = s.stream.eng)
  | starts (rest : s.stream.eng = .idle ∨ s.stream.eng = .stopped) (eng : t.stream.eng = .running)
      (enable : who = .host ∧ s.hph = .run ∧ decode s.latch.cmd = .ok .enable)
      (alloc : t.events = s.events ++ [.alloc .ok])
  | tearsDown (running : s.stream.eng = .running) (eng : t.stream.eng = .draining)
      (disable : who = .host ∧ s.hph = .run ∧ decode s.latch.cmd = .ok .disable)
  | faults (running : s.stream.eng = .running) (eng : t.stream.eng = .draining)
      (told : t.status.streamFault = true ∧ t.events.getLast? = some .fault ∧ t.events ≠ s.events)
  | frees (draining : s.stream.eng = .draining) (eng : t.stream.eng = .stopped) (drain : who = .drain)
      (free : t.events = s.events ++ [.free])
  | resets (eng : t.stream.eng = .idle) (reset : who = .reset)

/-- A fatal event takes a running engine to Draining and leaves any other (R262). -/
theorem EngineMove.of_fatal {who : Agent} {u : State} (es : List Event) (before : u.stream.eng = s.stream.eng)
    (stream : t.stream = (fatal u).stream) (events : t.events = s.events ++ (es ++ [.fault]))
    (fault : t.status.streamFault = true) : EngineMove who s t := by
  by_cases running : s.stream.eng = .running
  · refine .faults running ?_ ⟨fault, by simp [events], by simp [events]⟩
    rw [stream, fatal_stream_running u (before.trans running)]
  · refine .stays ?_
    rw [stream, fatal_stream_not_running u (by rwa [before]), before]

theorem CommandResult.engineMove {i : Instr} (e : CommandResult s i t) (h : Inv s)
    (run : i = .submit ∨ (s.hph = .run ∧ decode s.latch.cmd = .ok i)) : EngineMove .host s t := by
  cases e with
  | enabled running draining =>
    obtain ⟨run, word⟩ := run.resolve_left nofun
    exact .starts (h.engine.atRest_of running draining) rfl ⟨rfl, run, word⟩ rfl
  | tearsDown running =>
    obtain ⟨run, word⟩ := run.resolve_left nofun
    exact .tearsDown running rfl ⟨rfl, run, word⟩
  | notResized b =>
    exact .of_fatal (u := emit (.realloc b s.stream.bufSize .nomem) s) [.realloc b s.stream.bufSize .nomem] rfl rfl
      (List.append_assoc ..) rfl
  | negotiated => exact .stays (by simp)
  | finished | packed | solved | unsolved | reportedBpp | configured | notAllocated | waits | joins | begins
  | beginsResized | encodes | commits | clears => exact .stays rfl

theorem HostResult.engineMove (e : HostResult s t) (h : Inv s) : EngineMove .host s t := by
  cases e with
  | stays | rejects => exact .stays rfl
  | runs run word done => exact done.engineMove h (.inr ⟨run, word⟩)
  | submits _ done => exact done.engineMove h (.inl rfl)

theorem PortResult.engineMove (e : PortResult s t) : EngineMove .port s t := by
  cases e <;> exact .stays rfl

theorem WorkerResult.engineMove (e : WorkerResult s t) : EngineMove .worker s t := by
  cases e with
  | stays | exits | takesCredit | selects | submits | retries => exact .stays rfl
  | givesUp => exact .of_fatal [_] rfl rfl (List.append_assoc ..) rfl

theorem completeTransmit_eng (x : Transfer) (s : State) : (completeTransmit x s).stream.eng = s.stream.eng := by
  rw [completeTransmit_stream]

theorem BusResult.engineMove (e : BusResult s t) : EngineMove .bus s t := by
  cases e with
  | stays | resubmits => exact .stays rfl
  | completes => exact .stays (completeTransmit_eng ..)
  | fails x out es =>
    refine .of_fatal (u := completeTransmit x { s with events := s.events ++ es })
      (es ++ if x.kind = .main then [.vblank] else []) (completeTransmit_eng x _) rfl ?_ rfl
    rw [fatal_events, completeTransmit_events]
    simp only [List.append_assoc]

theorem DrainResult.engineMove (e : DrainResult s t) (draining : s.stream.eng = .draining) :
    EngineMove .drain s t := by
  cases e with
  | stays | joins | cancels => exact .stays rfl
  | frees | finishes => exact .frees draining rfl rfl rfl

/-- The Drain agent has a step only while the engine drains (R270). -/
theorem drainStep_engineMove (h : EngineInv s) : EngineMove .drain s (drainStep s) := by
  by_cases none : s.stream.dph = .none
  · exact .stays (by rw [drainStep, none])
  · exact (drainStep_result s).engineMove (h.draining_of_dph none)

theorem agentStep_engineMove {a : Agent} (h : Inv s) (e : agentStep a s = .next t) : EngineMove a s t := by
  by_cases drain : a = .drain
  · subst drain
    cases e
    exact drainStep_engineMove h.engine
  · cases agentStep_result e with
    | port done => exact done.engineMove
    | memory => exact .stays rfl
    | host done => exact done.engineMove h
    | worker done => exact done.engineMove
    | bus done => exact done.engineMove
    | drain => exact absurd rfl drain
    | reset => exact .resets rfl rfl

/-- Settles O54: the enabled flag by the invariant, the transitions by `EngineMove`. -/
theorem engineTransitions : Obligations.EngineTransitions := by
  unfold Obligations.EngineTransitions
  intro s t h e
  refine ⟨(stepKeepsInvariant s t h e).engine.enabled_iff, ?_⟩
  cases agentStep_engineMove h.beginTurn e with
  | stays eng => exact .inl eng
  | starts rest eng enable alloc => exact .inr (.inl ⟨rest, eng, enable, alloc⟩)
  | tearsDown running eng disable => exact .inr (.inr (.inl ⟨running, eng, .inl disable⟩))
  | faults running eng told => exact .inr (.inr (.inl ⟨running, eng, .inr told⟩))
  | frees draining eng drain free => exact .inr (.inr (.inr (.inl ⟨draining, eng, drain, free⟩)))
  | resets eng reset => exact .inr (.inr (.inr (.inr ⟨eng, reset⟩)))

end Sys2Proof.Machine
end

section
/-!
R284 does not follow (R221, R266): a run in which one buffer has two MAIN transfers outstanding and no companion.
-/

namespace Sys2Proof.Machine

/-- Every draw the first of its set. -/
def firstAnswers : Answers where
  alloc := .ok
  submit := .ok
  pick := 0
  status := .ok
  clear := .ok
  addr := 0
  byte := 0

/-- The Worker takes a credit, selects a buffer, and the bus accepts its MAIN and its companion. -/
def sendTurns : List Turn := List.replicate 4 { who := .worker, ans := firstAnswers }

/-- The Bus completes the outstanding transfer at position `i`. -/
def completeTurn (i : Nat) : Turn := { who := .bus, ans := { firstAnswers with pick := i } }

/-- The schedule of the counterexample. Buffers 3 and 2 complete their MAIN transfers and keep their companions in
flight; buffer 1 keeps both; buffer 0, now last in W with R and T empty, loses its companion, is selected again
(R221), and loses that companion too. -/
def companionsFirst : List Turn :=
  sendTurns ++ [completeTurn 0] ++ (sendTurns ++ [completeTurn 1]) ++ sendTurns ++
    (sendTurns ++ [completeTurn 5]) ++ (sendTurns ++ [completeTurn 6])

/-- The environment of the counterexample: packets of 16 bytes. -/
def smallPackets : Env := { Env.reset with
  agenda := companionsFirst
  par := { bwMax := Vector.replicate 8 0, mps := 16, retryMax := 0, maxBuf := 8 } }

/-- A stream that ENABLE has just started with buffers of 8 bytes: each MAIN transfer needs a companion (R249). -/
def freshStream : State := finish .ok (startStream 0 { State.reset with
  stream := { Stream.reset with bufSize := 8, bpp := some .one }
  env := smallPackets })

/-- The next states of `n` steps, as far as the machine answers. -/
def trace : Nat → State → List State
  | 0, _ => []
  | n + 1, s =>
    match step s with
    | .next t => t :: trace n t
    | .fault _ => []
    | .refused _ => []

/-- A trace is a run (R19). -/
theorem trace_isFiniteRun (n : Nat) (s : State) : IsFiniteRun s (trace n s) := by
  induction n generalizing s with
  | zero => trivial
  | succ n ih =>
    unfold trace
    cases e : step s with
    | next t => exact ⟨e, ih t⟩
    | fault f | refused r => trivial

/-- The run of the counterexample. -/
def companionRun : List State := trace companionsFirst.length freshStream

theorem freshStream_inv : Inv freshStream := by
  have configured : Inv { State.reset with
      stream := { Stream.reset with bufSize := 8, bpp := some .one }
      env := smallPackets } :=
    ⟨.reset rfl, .atRest (.inl rfl) rfl rfl rfl rfl rfl rfl rfl (by decide), .atRest (.inl rfl) rfl rfl rfl rfl,
      .notEncoding ⟨nofun, nofun⟩ rfl ⟨nofun, fun busy => absurd rfl busy⟩ nofun, by decide, rfl⟩
  exact configured.startStream (.inl rfl) nofun 0 rfl .ok

/-- All buffers have 8 bytes throughout the run. -/
theorem companionRun_sizes : ∀ u ∈ freshStream :: companionRun, u.pool.nb = 4 ∧ ∀ h k,
    (u.pool.buf h).size % u.env.par.mps = (u.pool.buf k).size % u.env.par.mps := by decide +kernel

/-- At its end buffer 0 has two transfers in flight and no companion outstanding, and the Worker counts none. -/
theorem companionRun_ends : ∃ u ∈ companionRun, 2 ≤ (u.pool.buf 0).inFlight ∧
    (∀ x ∈ u.bus.outs, ¬ (x.h = 0 ∧ x.kind = .zlp)) ∧ u.worker.wph = .wait := by decide +kernel

/-- Refutes O60: companions that complete before their MAIN transfers leave buffer 0 with two MAINs alone. -/
theorem not_inFlightAboveOneNeedsCompanion : ¬ Obligations.InFlightAboveOneNeedsCompanion := by
  unfold Obligations.InFlightAboveOneNeedsCompanion
  intro claim
  obtain ⟨u, mem, two, none_out, waits⟩ := companionRun_ends
  have idle : ∀ h, (freshStream.pool.buf h).inFlight = 0 := fun h => congrArg Buffer.inFlight (allocated_buf 8 0 h)
  have pending : CompanionPending 0 u := claim freshStream companionRun freshStream_inv rfl idle
    (trace_isFiniteRun ..) companionRun_sizes u mem 0 two
  rcases pending with ⟨x, out, companion⟩ | ⟨-, zlp | ⟨main, -⟩⟩
  · exact none_out x out companion
  · nomatch waits.symm.trans zlp
  · nomatch waits.symm.trans main

end Sys2Proof.Machine
end

section
/-!
DISABLE in a fair run (R281, R282): what every step does while the command waits, and the way from its start to Drain
finish.
-/

namespace Sys2Proof.Machine

variable {s t : State}

/-! ### Before the command's first step -/

/-- DISABLE has started and the Host has not yet taken its step (R34, R215). -/
structure DisableStarted (s : State) : Prop where
  run : s.hph = .run
  word : decode s.latch.cmd = .ok .disable

/-- `t` has the command that `s` runs, and not taken a step of it. -/
structure CommandStays (s t : State) : Prop where
  hph : t.hph = s.hph
  latch : t.latch = s.latch

theorem completeTransmit_commandStays (x : Transfer) (s : State) : CommandStays s (completeTransmit x s) := by
  rw [completeTransmit_eq]
  exact ⟨rfl, rfl⟩

/-- No agent but the Host takes a step of a command in RUN: the port starts no other while BUSY, and Drain finish
completes only a DISABLE that waits (R34, R278). -/
theorem AgentResult.commandStays {a : Agent} (e : AgentResult s a t) (other : a ≠ .host ∧ a ≠ .reset)
    (run : s.hph = .run) (busy : s.status.busy = true) : CommandStays s t := by
  cases e with
  | host => exact absurd rfl other.1
  | reset => exact absurd rfl other.2
  | memory => exact ⟨rfl, rfl⟩
  | port done =>
    cases done with
    | starts w prog idle => nomatch busy.symm.trans idle
    | observes | drops | writes => exact ⟨rfl, rfl⟩
  | worker done => cases done <;> exact ⟨rfl, rfl⟩
  | bus done =>
    cases done with
    | stays | resubmits => exact ⟨rfl, rfl⟩
    | completes x | fails x =>
      obtain ⟨hph, latch⟩ := completeTransmit_commandStays x _
      exact ⟨hph, latch⟩
  | drain done =>
    cases done with
    | finishes quiet submit wait => nomatch run.symm.trans wait
    | stays | joins | cancels | frees => exact ⟨rfl, rfl⟩

/-! ### While DISABLE waits -/

/-- DISABLE has finished: NOOP, or OK with the stream torn down (R215, R278). -/
def Disabled (s : State) : Prop :=
  s.hph = .idle ∧ s.status.busy = false ∧
    (s.status.code = .noop ∨ (s.status.code = .ok ∧ s.stream.eng = .stopped ∧ s.pool.nb = 0 ∧ s.bus.outs = []))

/-- DISABLE's own step finishes it, or leaves it waiting (R215). -/
theorem execDisable_finishes_or_waits (e : execDisable s = .next t) : Disabled t ∨ t.hph = .disWait := by
  rcases execDisable_cases e with ⟨wait, e⟩ | ⟨-, e⟩ | ⟨-, e⟩ | ⟨-, -, -, e⟩ <;> cases e
  · exact .inr wait
  · exact .inl ⟨rfl, rfl, .inl rfl⟩
  · exact .inr rfl
  · exact .inr rfl

/-- What a step of agent `a` from `s` to `t` does while DISABLE waits and goes on waiting (R270-R278): the Worker goes
to OFF by its own steps, the Drain agent through its phases by its own, and while cancellation is requested transfers
only complete. -/
structure WaitLaw (a : Agent) (s t : State) : Prop where
  wait : t.hph = .disWait
  worker_stays : a ≠ .worker → workerStepsLeft t = workerStepsLeft s
  worker_nearer : a = .worker → s.worker.wph ≠ .off → workerStepsLeft t < workerStepsLeft s
  off_stays : s.worker.wph = .off → t.worker.wph = .off
  drain_stays : a ≠ .drain → t.stream.dph = s.stream.dph
  joins : a = .drain → s.stream.dph = .join → s.worker.wph = .off → t.stream.dph = .waitXfers
  cancels : a = .drain → s.stream.dph = .waitXfers → t.stream.dph = .cancelling
  cancelling : s.stream.dph = .cancelling → t.stream.dph = .cancelling ∧ t.bus.outs.Sublist s.bus.outs
  outstanding : a = .drain → s.stream.dph = .cancelling → s.bus.outs ≠ []

/-- A step that is neither the Worker's nor the Drain agent's. -/
theorem WaitLaw.of_other {a : Agent} (other : a ≠ .worker ∧ a ≠ .drain) (wait : t.hph = .disWait)
    (worker : t.worker = s.worker) (par : t.env.par = s.env.par) (dph : t.stream.dph = s.stream.dph)
    (outs : s.stream.dph = .cancelling → t.bus.outs.Sublist s.bus.outs) : WaitLaw a s t where
  wait := wait
  worker_stays := fun _ => by rw [workerStepsLeft, worker, par]; rfl
  worker_nearer := fun e => absurd e other.1
  off_stays := fun off => by rw [worker, off]
  drain_stays := fun _ => dph
  joins := fun e => absurd e other.2
  cancels := fun e => absurd e other.2
  cancelling := fun phase => ⟨dph.trans phase, outs phase⟩
  outstanding := fun e => absurd e other.2

/-- The stream is disabled, its tear-down has begun, and no SUBMIT is pending. -/
structure TearsDown (s : State) : Prop where
  disabled : s.stream.enabled = false
  draining : s.stream.eng = .draining
  no_submit : s.sub.sb = false

/-- So it is while DISABLE waits (R62). -/
theorem Inv.tearsDown_of_wait (h : Inv s) (wait : s.hph = .disWait) : TearsDown s := by
  have draining := h.command.dis_wait wait
  refine ⟨?_, draining, h.command.sb_false (by simp [wait]) (by simp [wait])⟩
  rw [← Bool.not_eq_true, h.engine.enabled_iff, draining]
  nofun

theorem PortResult.waitLaw (e : PortResult s t) (wait : s.hph = .disWait) (busy : s.status.busy = true) :
    WaitLaw .port s t := by
  cases e with
  | starts w prog idle => nomatch busy.symm.trans idle
  | observes | drops | writes => exact .of_other ⟨nofun, nofun⟩ wait rfl rfl rfl fun _ => .refl _

theorem fatal_dph (other : s.stream.eng ≠ .running) : (fatal s).stream.dph = s.stream.dph := by
  rw [fatal_stream_not_running s other]

theorem WorkerResult.keeps_phases (e : WorkerResult s t) (other : s.stream.eng ≠ .running) :
    t.hph = s.hph ∧ t.stream.dph = s.stream.dph := by
  cases e with
  | stays | exits | takesCredit | selects | submits | retries => exact ⟨rfl, rfl⟩
  | givesUp => exact ⟨rfl, fatal_dph other⟩

theorem workerStep_of_off (off : s.worker.wph = .off) : workerStep s = .next s := by
  rw [workerStep, off]

theorem workerStep_waitLaw (h : Inv s) (wait : s.hph = .disWait) (e : workerStep s = .next t) :
    WaitLaw .worker s t := by
  obtain ⟨disabled, draining, -⟩ := h.tearsDown_of_wait wait
  obtain ⟨hph, dph⟩ := (workerStep_result e).keeps_phases (by simp [draining])
  have stays (off : s.worker.wph = .off) : t = s := by
    rw [workerStep_of_off off] at e
    exact (Host.Outcome.next.inj e).symm
  exact {
    wait := hph.trans wait
    worker_stays := fun other => absurd rfl other
    worker_nearer := fun _ work => (workerStep_nearer disabled work e).1
    off_stays := fun off => by rw [stays off, off]
    drain_stays := fun _ => dph
    joins := nofun
    cancels := nofun
    cancelling := fun phase => ⟨dph.trans phase, by rw [stays (h.engine.joined (.inr phase))]⟩
    outstanding := nofun }

/-- The Bus leaves the command, the Worker and the tear-down's phase alone. -/
theorem BusResult.keeps_phases (e : BusResult s t) (other : s.stream.eng ≠ .running) :
    t.hph = s.hph ∧ t.worker = s.worker ∧ t.env = s.env ∧ t.stream.dph = s.stream.dph := by
  cases e with
  | stays | resubmits => exact ⟨rfl, rfl, rfl, rfl⟩
  | completes x => rw [completeTransmit_eq]; exact ⟨rfl, rfl, rfl, by dsimp only; split_ifs <;> rfl⟩
  | fails x out es =>
    refine ⟨?_, ?_, ?_, ?_⟩
    · rw [fatal_hph, completeTransmit_eq]
    · rw [fatal_worker, completeTransmit_eq]
    · rw [fatal_env, completeTransmit_eq]
    · rw [fatal_dph (by rwa [completeTransmit_eng]), completeTransmit_stream]

/-- While cancellation is requested no halt is handled, so transfers only leave the bus (R266). -/
theorem busStep_outs_of_cancel (cancel : s.stream.cancelReq = true) : (busStep s).bus.outs.Sublist s.bus.outs := by
  rcases busStep_cases s with ⟨-, e⟩ | ⟨x, -, e⟩ <;> rw [e]
  have no_halt : allowedStatus s.stream.cancelReq s.env.ans.status ≠ .halt := by
    rcases allowedStatus_of_cancel cancel s.env.ans.status with e | e <;> rw [e] <;> nofun
  rw [completion_of_ne_halt no_halt, completeTransmit_eq]
  exact List.filter_sublist

theorem busStep_waitLaw (h : Inv s) (wait : s.hph = .disWait) : WaitLaw .bus s (busStep s) := by
  obtain ⟨-, draining, -⟩ := h.tearsDown_of_wait wait
  obtain ⟨hph, worker, env, dph⟩ := (busStep_result s).keeps_phases (by simp [draining])
  exact .of_other ⟨nofun, nofun⟩ (hph.trans wait) worker (by rw [env]) dph fun phase =>
    busStep_outs_of_cancel (h.engine.cancel_iff.2 phase)

/-- A Drain step before the finish step. -/
theorem WaitLaw.of_drain (wait : t.hph = .disWait) (worker : t.worker = s.worker) (par : t.env.par = s.env.par)
    (bus : t.bus = s.bus) (joins : s.stream.dph = .join → s.worker.wph = .off → t.stream.dph = .waitXfers)
    (cancels : s.stream.dph = .waitXfers → t.stream.dph = .cancelling)
    (cancelling : s.stream.dph = .cancelling → t.stream.dph = .cancelling ∧ s.bus.outs ≠ []) : WaitLaw .drain s t where
  wait := wait
  worker_stays := fun _ => by rw [workerStepsLeft, worker, par]; rfl
  worker_nearer := nofun
  off_stays := fun off => by rw [worker, off]
  drain_stays := fun other => absurd rfl other
  joins := fun _ => joins
  cancels := fun _ => cancels
  cancelling := fun phase => ⟨(cancelling phase).1, by rw [bus]⟩
  outstanding := fun _ phase => (cancelling phase).2

/-- Drain finish completes the waiting DISABLE (R278). -/
theorem drainFinish_disabled (wait : s.hph = .disWait) (quiet : s.bus.outs = []) : Disabled (drainFinish s) := by
  rw [drainFinish, if_pos wait]
  exact ⟨rfl, rfl, .inr ⟨rfl, rfl, rfl, quiet⟩⟩

theorem drainStep_disables_or_waits (h : Inv s) (wait : s.hph = .disWait) :
    Disabled (drainStep s) ∨ WaitLaw .drain s (drainStep s) := by
  obtain ⟨-, draining, sb⟩ := h.tearsDown_of_wait wait
  by_cases finishes : (s.stream.dph = .waitXfers ∨ s.stream.dph = .cancelling) ∧ s.bus.outs = []
  · obtain ⟨phase, quiet⟩ := finishes
    rw [drainStep_finishes phase quiet sb]
    exact .inl (drainFinish_disabled wait quiet)
  · refine .inr ?_
    cases phase : s.stream.dph with
    | none => exact absurd phase (h.engine.draining draining).1
    | join =>
      by_cases off : s.worker.wph = .off
      · rw [drainStep_joins phase off]
        exact .of_drain wait rfl rfl rfl (fun _ _ => rfl) (by simp [phase]) (by simp [phase])
      · rw [drainStep_waits_worker phase off]
        exact .of_drain wait rfl rfl rfl (fun _ e => absurd e off) (by simp [phase]) (by simp [phase])
    | waitXfers =>
      rw [drainStep_cancels phase fun quiet => finishes ⟨.inl phase, quiet⟩]
      exact .of_drain wait rfl rfl rfl (by simp [phase]) (fun _ => rfl) (by simp [phase])
    | cancelling =>
      have some : s.bus.outs ≠ [] := fun quiet => finishes ⟨.inr phase, quiet⟩
      rw [drainStep_waits_transfers phase some]
      exact .of_drain wait rfl rfl rfl (by simp [phase]) (by simp [phase]) fun _ => ⟨phase, some⟩

/-- A step while DISABLE waits finishes it or follows the law. -/
theorem agentStep_disables_or_waits {a : Agent} (h : Inv s) (wait : s.hph = .disWait) (other : a ≠ .reset)
    (e : agentStep a s = .next t) : Disabled t ∨ WaitLaw a s t := by
  have busy : s.status.busy = true := h.command.busy_iff.2 (by simp [wait])
  cases a with
  | port => cases e; exact .inr ((portStep_result s).waitLaw wait busy)
  | memory => cases e; exact .inr (.of_other ⟨nofun, nofun⟩ wait rfl rfl rfl fun _ => .refl _)
  | host =>
    rw [agentStep, hostStep_of_quiet (.inr wait)] at e
    cases e
    exact .inr (.of_other ⟨nofun, nofun⟩ wait rfl rfl rfl fun _ => .refl _)
  | worker => exact .inr (workerStep_waitLaw h wait e)
  | bus => cases e; exact .inr (busStep_waitLaw h wait)
  | drain => cases e; exact drainStep_disables_or_waits h wait
  | reset => exact absurd rfl other

/-! ### Runs -/

theorem Inv.withTurn (h : Inv s) (turn : Turn) : Inv (withTurn turn s) :=
  h.congr rfl rfl rfl rfl rfl rfl rfl rfl h.host_memory

/-- Whose turn it is changes nothing the law reads. -/
theorem WaitLaw.of_begun {a : Agent} {turn : Turn} (h : WaitLaw a (beginTurn (withTurn turn s)) t) : WaitLaw a s t :=
  { h with }

/-- The other agents' steps leave DISABLE started. -/
theorem DisableStarted.step {a : Agent} {turn : Turn} (h : DisableStarted s) (inv : CommandInv s)
    (other : a ≠ .host ∧ a ≠ .reset) (e : agentStep a (beginTurn (withTurn turn s)) = .next t) : DisableStarted t := by
  obtain ⟨hph, latch⟩ := (agentStep_result e).commandStays other h.run (inv.busy_of_run h.run)
  exact ⟨hph.trans h.run, latch ▸ h.word⟩

/-- The Host's step is the command's (R114, R215). -/
theorem DisableStarted.hostStep {turn : Turn} (h : DisableStarted s)
    (e : agentStep .host (beginTurn (withTurn turn s)) = .next t) : Disabled t ∨ t.hph = .disWait := by
  have own := hostStep_of_decode (s := beginTurn (withTurn turn s)) h.run h.word
  exact execDisable_finishes_or_waits (own.symm.trans e)

section Runs

variable {sched : Nat → Turn} {run : Nat → State}

theorem IsRun.inv (h : IsRun sched run) (start : Inv (run 0)) (k : Nat) : Inv (run k) := by
  induction k with
  | zero => exact start
  | succ k ih =>
    exact stepKeepsInvariant _ _ (ih.withTurn (sched k)) (h k)

/-- The agent `a` takes a turn at `j`, its first from `k` on. -/
def FirstTurn (a : Agent) (sched : Nat → Turn) (k j : Nat) : Prop :=
  k ≤ j ∧ (sched j).who = a ∧ ∀ i, k ≤ i → i < j → (sched i).who ≠ a

/-- A weakly fair agent that stays enabled as long as it has no turn has a first turn (R281). -/
theorem WeaklyFair.firstTurn {enabled : State → Prop} {a : Agent} (fair : WeaklyFair enabled a sched run) (k : Nat)
    (stays : ∀ j, k ≤ j → (∀ i, k ≤ i → i < j → (sched i).who ≠ a) → enabled (run j)) :
    ∃ j, FirstTurn a sched k j := by
  have turn : ∃ j, k ≤ j ∧ (sched j).who = a := by
    by_contra none
    have others : ∀ i, k ≤ i → (sched i).who ≠ a := fun i le who => none ⟨i, le, who⟩
    exact none (fair k fun j le => stays j le fun i low _ => others i low)
  classical
  obtain ⟨le, who⟩ := Nat.find_spec turn
  exact ⟨Nat.find turn, le, who, fun i low lt who => Nat.find_min turn lt ⟨low, who⟩⟩

/-- What holds at `k` and is kept by every turn before `j` holds at `j`. -/
theorem holds_until {P : State → Prop} {k j : Nat} (le : k ≤ j) (start : P (run k))
    (keep : ∀ i, k ≤ i → i < j → P (run i) → P (run (i + 1))) : P (run j) := by
  induction j, le using Nat.le_induction with
  | base => exact start
  | succ j le ih => exact keep j le (by omega) (ih fun i low lt => keep i low (by omega))

/-- From its `n`-th state on, the run has DISABLE wait without end. -/
structure WaitsForever (sched : Nat → Turn) (run : Nat → State) (n : Nat) : Prop where
  fair : Fair sched run
  inv : ∀ k, n ≤ k → Inv (run k)
  wait : ∀ k, n ≤ k → (run k).hph = .disWait
  law : ∀ k, n ≤ k → WaitLaw (sched k).who (run k) (run (k + 1))

theorem workerEnabled_of_disabled (disabled : s.stream.enabled = false) (work : s.worker.wph ≠ .off) :
    workerEnabled s := by
  unfold workerEnabled
  cases phase : s.worker.wph with
  | off => exact absurd phase work
  | wait => exact .inr disabled
  | select | subMain | subZlp => trivial

namespace WaitsForever

variable {n k : Nat}

theorem tearsDown (h : WaitsForever sched run n) (le : n ≤ k) : TearsDown (run k) :=
  (h.inv k le).tearsDown_of_wait (h.wait k le)

/-- The Worker's turns take it to OFF (R272). -/
theorem reaches_off (h : WaitsForever sched run n) (le : n ≤ k) : ∃ j, k ≤ j ∧ (run j).worker.wph = .off := by
  induction left : workerStepsLeft (run k) using Nat.strong_induction_on generalizing k with
  | _ m ih =>
  by_cases off : (run k).worker.wph = .off
  · exact ⟨k, le_rfl, off⟩
  · have same : ∀ j, k ≤ j → (∀ i, k ≤ i → i < j → (sched i).who ≠ .worker) → workerStepsLeft (run j) = m :=
      fun j low others => holds_until (P := fun s => workerStepsLeft s = m) low left fun i low' lt same =>
        ((h.law i (le.trans low')).worker_stays (others i low' lt)).trans same
    have works {j : Nat} (same : workerStepsLeft (run j) = m) : (run j).worker.wph ≠ .off := fun off' => by
      have pos := workerStepsLeft_pos off
      rw [workerStepsLeft_off off', ← left] at same
      omega
    obtain ⟨j, low, who, others⟩ := h.fair.worker.firstTurn k fun j low others =>
      workerEnabled_of_disabled (h.tearsDown (le.trans low)).disabled
        (works (same j low others))
    have nearer := (h.law j (le.trans low)).worker_nearer who (works (same j low others))
    rw [same j low others] at nearer
    obtain ⟨i, low', off'⟩ := ih _ nearer (le.trans (low.trans (Nat.le_succ j))) rfl
    exact ⟨i, by omega, off'⟩

theorem off_from (h : WaitsForever sched run n) (le : n ≤ k) (off : (run k).worker.wph = .off) {j : Nat}
    (low : k ≤ j) : (run j).worker.wph = .off :=
  holds_until (P := fun s => s.worker.wph = .off) low off fun i low' _ => (h.law i (le.trans low')).off_stays

/-- A tear-down phase in which the Drain agent always has a step ends with its turn (R281). -/
theorem drain_turn (h : WaitsForever sched run n) (le : n ≤ k)
    (enabled : ∀ j, k ≤ j → (run j).stream.dph = (run k).stream.dph → drainEnabled (run j)) :
    ∃ j, k ≤ j ∧ (sched j).who = .drain ∧ (run j).stream.dph = (run k).stream.dph := by
  have same : ∀ j, k ≤ j → (∀ i, k ≤ i → i < j → (sched i).who ≠ .drain) →
      (run j).stream.dph = (run k).stream.dph := fun j low others =>
    holds_until (P := fun s => s.stream.dph = (run k).stream.dph) low rfl fun i low' lt same =>
      ((h.law i (le.trans low')).drain_stays (others i low' lt)).trans same
  obtain ⟨j, low, who, others⟩ := h.fair.drain.firstTurn k fun j low others => enabled j low (same j low others)
  exact ⟨j, low, who, same j low others⟩

/-- With the Worker at OFF the tear-down comes to wait for the transfers (R271). -/
theorem reaches_waitXfers (h : WaitsForever sched run n) (le : n ≤ k) (off : (run k).worker.wph = .off)
    (phase : (run k).stream.dph = .join) : ∃ j, k ≤ j ∧ (run j).stream.dph = .waitXfers := by
  obtain ⟨j, low, who, same⟩ := h.drain_turn le fun j low same => by
    rw [drainEnabled, same, phase]
    exact h.off_from le off low
  exact ⟨j + 1, by omega, (h.law j (le.trans low)).joins who (same.trans phase) (h.off_from le off low)⟩

/-- A waiting tear-down comes to cancel them (R276). -/
theorem reaches_cancelling (h : WaitsForever sched run n) (le : n ≤ k) (phase : (run k).stream.dph = .waitXfers) :
    ∃ j, k ≤ j ∧ (run j).stream.dph = .cancelling := by
  obtain ⟨j, low, who, same⟩ := h.drain_turn le fun j low same => by
    rw [drainEnabled, same, phase]
    exact .inr (h.tearsDown (le.trans low)).no_submit
  exact ⟨j + 1, by omega, (h.law j (le.trans low)).cancels who (same.trans phase)⟩

/-- While they are cancelled, transfers only leave the bus. -/
theorem cancelling_from (h : WaitsForever sched run n) (le : n ≤ k) (phase : (run k).stream.dph = .cancelling)
    {j : Nat} (low : k ≤ j) : (run j).stream.dph = .cancelling ∧ (run j).bus.outs.Sublist (run k).bus.outs :=
  holds_until (P := fun s => s.stream.dph = .cancelling ∧ s.bus.outs.Sublist (run k).bus.outs) low ⟨phase, .refl _⟩
    fun i low' _ ⟨phase, fewer⟩ =>
      let ⟨stays, sub⟩ := (h.law i (le.trans low')).cancelling phase
      ⟨stays, sub.trans fewer⟩

/-- The Bus completes every cancelled transfer in the end (R281). -/
theorem reaches_quiet (h : WaitsForever sched run n) (le : n ≤ k) (phase : (run k).stream.dph = .cancelling) :
    ∃ j, k ≤ j ∧ (run j).stream.dph = .cancelling ∧ (run j).bus.outs = [] := by
  induction len : (run k).bus.outs.length using Nat.strong_induction_on generalizing k with
  | _ m ih =>
  by_cases quiet : (run k).bus.outs = []
  · exact ⟨k, le_rfl, phase, quiet⟩
  · obtain ⟨x, out⟩ := List.exists_mem_of_ne_nil _ quiet
    obtain ⟨j, low, gone⟩ := h.fair.bus k x out ((h.inv k le).engine.cancel_iff.2 phase)
    obtain ⟨stays, sub⟩ := h.cancelling_from le phase low
    have fewer : (run j).bus.outs.length < m := by
      refine lt_of_le_of_ne (len ▸ sub.length_le) fun eq => gone ?_
      rwa [sub.eq_of_length (eq.trans len.symm)]
    obtain ⟨i, low', done⟩ := ih _ fewer (le.trans low) stays rfl
    exact ⟨i, low.trans low', done⟩

/-- With nothing outstanding the Drain agent's turn is the finish step, so no DISABLE waits for ever (R278, R282). -/
theorem impossible (h : WaitsForever sched run n) : False := by
  obtain ⟨k, le, off⟩ := h.reaches_off le_rfl
  have waiting : ∃ j, k ≤ j ∧ (run j).stream.dph = .cancelling := by
    cases phase : (run k).stream.dph with
    | none => exact absurd phase ((h.inv k le).engine.draining (h.tearsDown le).draining).1
    | join =>
      obtain ⟨i, low, waits⟩ := h.reaches_waitXfers le off phase
      obtain ⟨j, low', cancels⟩ := h.reaches_cancelling (le.trans low) waits
      exact ⟨j, low.trans low', cancels⟩
    | waitXfers => exact h.reaches_cancelling le phase
    | cancelling => exact ⟨k, le_rfl, phase⟩
  obtain ⟨i, low, phase⟩ := waiting
  obtain ⟨k, low', phase, quiet⟩ := h.reaches_quiet (le.trans low) phase
  have le : n ≤ k := le.trans (low.trans low')
  have quiet_from {j : Nat} (low : k ≤ j) : (run j).bus.outs = [] :=
    List.sublist_nil.1 (quiet ▸ (h.cancelling_from le phase low).2)
  obtain ⟨j, low, who, same⟩ := h.drain_turn le fun j low same => by
    rw [drainEnabled, same, phase]
    exact ⟨quiet_from low, (h.tearsDown (le.trans low)).no_submit⟩
  exact (h.law j (le.trans low)).outstanding who (same.trans phase) (quiet_from low)

end WaitsForever

/-- A DISABLE that never finishes waits from its own step on, and takes that step at the Host's first turn. -/
theorem IsRun.waitsForever (isRun : IsRun sched run) (fair : Fair sched run) (no_reset : ∀ k, (sched k).who ≠ .reset)
    (start : Inv (run 0)) (command : DisableStarted (run 0)) (never : ∀ k, ¬ Disabled (run k)) :
    ∃ n, WaitsForever sched run n := by
  have inv := isRun.inv start
  have started {j : Nat} (others : ∀ i, 0 ≤ i → i < j → (sched i).who ≠ .host) : DisableStarted (run j) :=
    holds_until (Nat.zero_le j) command fun i low lt started =>
      started.step (inv i).command ⟨others i low lt, no_reset i⟩ (isRun.agentStep i)
  obtain ⟨j, -, who, others⟩ := fair.host.firstTurn 0 fun j _ others => .inl (started others).run
  have waits : (run (j + 1)).hph = .disWait :=
    ((started others).hostStep (who ▸ isRun.agentStep j)).resolve_left (never _)
  have law (k : Nat) (wait : (run k).hph = .disWait) : WaitLaw (sched k).who (run k) (run (k + 1)) :=
    have turned : Inv (beginTurn (withTurn (sched k) (run k))) := ((inv k).withTurn (sched k)).beginTurn
    ((agentStep_disables_or_waits turned wait (no_reset k) (isRun.agentStep k)).resolve_left (never _)).of_begun
  have wait : ∀ k, j + 1 ≤ k → (run k).hph = .disWait := fun k low =>
    holds_until (P := fun s => s.hph = .disWait) low waits fun i _ _ wait => (law i wait).wait
  exact ⟨j + 1, fair, fun k _ => inv k, wait, fun k low => law k (wait k low)⟩

end Runs

/-- Settles O59: a DISABLE that never finished would wait for ever, which no fair run allows. -/
theorem disableTerminates : Obligations.DisableTerminates := by
  unfold Obligations.DisableTerminates
  intro sched run isRun fair no_reset start phase word
  by_contra never
  obtain ⟨n, waits⟩ := isRun.waitsForever fair no_reset start ⟨phase, word⟩ fun k done => never ⟨k, done⟩
  exact waits.impossible

end Sys2Proof.Machine
end

section
/-!
The reset turn (R340, R341).
-/

namespace Sys2Proof

/-- Where a reset is defined: in Idle or Stopped with nothing of the stream pending (R341). -/
theorem Machine.resetAllowed_iff {s : Machine.State} : Machine.resetAllowed s = true ↔
    (s.stream.eng = .idle ∨ s.stream.eng = .stopped) ∧ s.bus.outs = [] ∧ s.worker.wph = .off ∧
      s.stream.dph = .none ∧ s.sub.sb = false ∧ s.hph ≠ .disWait := by
  simp [Machine.resetAllowed, and_assoc]

/-- Settles O49: beginning a turn leaves all that `Machine.resetAllowed` reads. -/
theorem resetTurn : Obligations.ResetTurn := by
  unfold Obligations.ResetTurn
  intro s who quiet
  have step : Machine.step s = Machine.resetTurn (Machine.beginTurn s) := Machine.step_of_who who
  have allowed : Machine.resetAllowed (Machine.beginTurn s) = true ↔ quiet := Machine.resetAllowed_iff
  refine ⟨fun rest => ?_, fun busy => ?_⟩
  · exact step.trans (if_pos (allowed.2 rest))
  · exact step.trans (if_neg (mt allowed.1 busy))

end Sys2Proof
end
